-- ==== Sys2Proof/Word.lean ====
section
/-! DEFINITION. The word types of the block (rule R11: unsigned values, bits numbered from 0). -/

namespace Sys2Proof

/-- A 32-bit register or command word (R18, R53). -/
abbrev Word := BitVec 32

/-- One byte of the DATA buffer or of the wire (R37, R45). -/
abbrev Byte := BitVec 8

/-- A level of a line: `false` is 0 (low), `true` is 1 (high) (R11). -/
abbrev Level := Bool

/-- The number of a pin, 0 = unconfigured (R10, R41). -/
abbrev PinNum := BitVec 16

end Sys2Proof
end

