-- ==== Sys2Proof/Config.lean ====
section
/-! DEFINITION. What an implementation fixes (R10) and the free values (draws) of the spec. Every one is an opaque
constant: no proof can see its value. -/

namespace Sys2Proof

/-- The two platform behaviours of a pin whose direction becomes OUT (R30). -/
inductive Redirect where
  /-- The pin drives the level last set. -/
  | latch
  /-- The pin drives low until the next PinSet. -/
  | low
deriving DecidableEq, Repr, Inhabited

/-- The OPEN parameter `SDA_OUT_ON_REDIRECT` (R10, R30). -/
opaque Config.sdaOutOnRedirect : Redirect

/-- The number of the 512-byte page that holds the register window: the OPEN parameter `BBM_BASE` is 512 times it (R42). -/
opaque Config.bbmPage : Nat

/-- `BBM_BASE`, aligned to 512 bytes (R42). -/
def Config.bbmBase : Nat := 512 * Config.bbmPage

/-- `T_SETTLE` less one, in units the model does not fix. -/
opaque Config.settleLessOne : Nat

/-- `T_SETTLE`, a duration above 0 (R36). No rule of the model depends on it. -/
def Config.tSettle : Nat := Config.settleLessOne + 1

/-- The bus environment's `n`-th draw where the state lists no answer: an SDA sample, or an export or unexport
result (R8, R31; `true` is level 1 or ok). -/
opaque Config.freeBit : Nat → Bool

/-- What the `n`-th draw of a host read returns: a read the spec leaves unspecified while BUSY = 1 (R27), or a read of
an offset the block does not decode (R42). -/
opaque Config.freeWord : Nat → Word

/-- The level a pin's latch holds when the block first owns it (R117), for the export that was draw `n`. -/
opaque Config.freeLatch : Nat → Level

/-- The level of SDA after the `n`-th event of a list, while the block does not drive it and no later event of its
window samples it (R31, R116). -/
opaque Config.freeSda : Nat → Level

/-- The level of SCL after `n` events, in the test for an idle bus, while the block does not drive it. DESIGN CHOICE (free
value): R31 gives no level there (notes/assumptions/29.md). -/
opaque Config.undrivenScl : Nat → Level

/-- The level of SDA after `n` events, in the test for an idle bus, while the block does not drive it. DESIGN CHOICE (free
value): R31 makes it a draw while SDA is an input, and gives none with no bus open (notes/assumptions/29.md). -/
opaque Config.undrivenSda : Nat → Level

/-- What WAIT yields as a pseudo-instruction, from the values its reads returned. DESIGN CHOICE: R61 says that R85 defines
each result, and R85 has no row for WAIT (notes/assumptions/26.md). -/
opaque Config.waitResult : List Word → Word

end Sys2Proof
end

