-- ==== Sys2Proof/Syntax.lean ====
section
/-! DEFINITION. The commands of the block: one constructor per row of spec/opcode_table.json (R57), and the
assembler's lines, whose operands are plain numbers (R60). -/

namespace Sys2Proof

/-- The size class of a generic access (R56): SIZE 0, 1, 2, 3. -/
inductive SizeClass where
  | quick
  | byte
  | word
  | block
deriving DecidableEq, Repr, Inhabited

/-- A command (R53 to R57). Each operand has exactly the width its format gives it, so every value is encodable. -/
inductive Instr where
  /-- START, format S with R = 0 (R66). -/
  | start
  /-- RESTART, format S with R = 1 (R67). -/
  | restart
  /-- STOP, format N (R68). -/
  | stop
  /-- SEND, format B (R69). -/
  | send (b : BitVec 8)
  /-- RECV, format N (R70). -/
  | recv
  /-- ACK, format N (R71). -/
  | ack
  /-- SETADDR, format A (R75). -/
  | setaddr (a7 : BitVec 7)
  /-- ACCESS.W, format X with DIR = 0 (R82). LEN is kept for every size class, and read only for BLOCK (R56). -/
  | accessW (size : SizeClass) (len : BitVec 8) (cmdb : BitVec 8)
  /-- ACCESS.R, format X with DIR = 1 (R83). -/
  | accessR (size : SizeClass) (len : BitVec 8) (cmdb : BitVec 8)
  /-- OPEN, format N (R73). -/
  | openBus
  /-- CLOSE, format N (R74). -/
  | closeBus
deriving DecidableEq, Repr, Inhabited

/-- A line of the assembler (R60), its operands as the numbers written: they may be out of range. -/
inductive AsmLine where
  | start
  | restart
  | stop
  | send (b : Nat)
  | recv
  | ack
  | setaddr (a : Nat)
  | accessW (c : Nat) (size : SizeClass) (n : Nat)
  | accessR (c : Nat) (size : SizeClass) (n : Nat)
  | openBus
  | closeBus
deriving DecidableEq, Repr, Inhabited

end Sys2Proof
end

