-- ==== Sys2Proof/Machine/State.lean ====
section
/-! DEFINITION. The state of the block and of the two agents around it, as plain data (R15 to R40). -/

namespace Sys2Proof.Machine

/-- Why a machine stops: the model faults of R88. Each is raised by `step` alone, at a state whose mark FAULTED holds
that reason (R38), once no command runs. Each stop is SAFE: nothing can be proved of what the hardware does after it. -/
inductive Fault where
  /-- A host write while BUSY = 1 (R89), marked by `hostWrite`. Safe: the step stops. -/
  | busyWrite
  /-- A host access not 32 bits wide or not 4-byte aligned (R43), marked by `hostWrite` and `hostRead`. Safe. -/
  | badWidth
  /-- A host access to offsets 0x01C to 0x0FC (R42), marked by `hostWrite` and `hostRead`. Safe. -/
  | reservedOffset
  /-- A host read of a DATA word with an UNSET byte while BUSY = 0 (R37), marked by `hostRead`. Safe. -/
  | unsetRead
  /-- ACCESS.W whose payload includes an UNSET byte (R82), marked by `abandon`. Safe. -/
  | unsetData
deriving DecidableEq, Repr, Inhabited

/-- Why a step gives no meaning. -/
inductive Refusal where
  /-- Raised by an arm of `exec` whose instruction has no meaning yet; no arm raises it now. Safe: the step stops. -/
  | notModelled (mnemonic : String)
deriving DecidableEq, Repr, Inhabited

/-- A pin direction (R11). -/
inductive Dir where
  | out
  | inp
deriving DecidableEq, Repr, Inhabited

/-- The two lines of the bus (R1). -/
inductive Line where
  | scl
  | sda
deriving DecidableEq, Repr, Inhabited

/-- A pin as the engine drives it: its role on the bus and its number (R13). -/
structure Pin where
  line : Line
  num : PinNum
deriving DecidableEq, Repr, Inhabited

/-- The two pins a command drives. -/
structure Wires where
  scl : Pin
  sda : Pin
deriving DecidableEq, Repr, Inhabited

/-- A pin event, in the notation of R13. -/
inductive PinEvent where
  /-- `X(p)=ok` -/
  | exported (p : Pin) (ok : Bool)
  /-- `U(p)=ok` -/
  | unexported (p : Pin) (ok : Bool)
  /-- `D(p,d)` -/
  | dir (p : Pin) (d : Dir)
  /-- `L(p,v)` -/
  | level (p : Pin) (v : Level)
  /-- `G(p)=b` -/
  | sample (p : Pin) (b : Level)
deriving DecidableEq, Repr, Inhabited

/-- The codes of STATUS.ERR (R87). Codes 7 to 15 are never written. -/
inductive Err where
  | none
  | nack
  | precondition
  | descriptor
  | resource
  | unconfigured
  | illegalCmd
deriving DecidableEq, Repr, Inhabited

/-- The values of STATUS.NPHASE (R20). Values 5 to 7 are never written. -/
inductive Phase where
  | none
  | addrWrite
  | command
  | data
  | addrRead
deriving DecidableEq, Repr, Inhabited

/-- What a `Send` is for: the host's own SEND, or a byte of an ACCESS (R69, R81). -/
inductive SendRole where
  | host
  | addrWrite
  | command
  | data
  | addrRead
deriving DecidableEq, Repr, Inhabited

/-- A pin primitive of a procedure (R13), with what the procedure does with its local variables at that point. -/
inductive PinOp where
  /-- `PinSet(p, v)` -/
  | set (p : Pin) (v : Level)
  /-- `PinDir(p, d)` -/
  | dir (p : Pin) (d : Dir)
  /-- `a <- PinGet(p)` of `Send` (R69). -/
  | getAck (p : Pin)
  /-- The last `PinSet(SCL, 0)` of `Send`, after which ACCESS looks at the bit `a` (R81). -/
  | endSend (p : Pin) (role : SendRole)
  /-- The first `PinDir(SDA, IN)` of `Recv`, then `v <- 0` (R70). -/
  | beginRecv (p : Pin)
  /-- `bi <- PinGet(p)`, then `v <- v | (bi << i)` (R70). -/
  | getBit (p : Pin) (i : Nat)
  /-- The last `PinDir(SDA, OUT)` of `Recv`; ACCESS.R then stores the byte in DATA and counts it (R83). -/
  | endRecv (p : Pin) (dst : Option (BitVec 8))
  /-- `PinExport(p)` of OPEN: a failure ends the command (R73). -/
  | exportPin (p : Pin)
  /-- `PinUnexport(p)` of CLOSE: a failure is noted and the command goes on (R74). -/
  | unexportPin (p : Pin)
deriving DecidableEq, Repr, Inhabited

/-- What the completion step of a command writes beside BUSY (R17). -/
inductive Completion where
  /-- Only ERR: a refusal, or the silent no-op of START and RESTART (R58, R64, R91). -/
  | report (e : Err)
  /-- SETADDR (R75). -/
  | setAddr (a7 : BitVec 7)
  /-- An engine command (R66 to R71). -/
  | engine
  /-- `Finish` or `Fail` of an ACCESS (R81). -/
  | access
  /-- OPEN, after its exports were tried (R73). -/
  | opened (scl sda : PinNum)
  /-- CLOSE (R74). -/
  | closed
deriving DecidableEq, Repr, Inhabited

/-- SEQ, the engine's position in the command (R17). -/
inductive EngineSeq where
  /-- No command runs. -/
  | idle
  /-- The command word stands in CUR and no step of it was taken. -/
  | start
  /-- The pin operations still to do: those an abort skips, those every path ends with, and the completion step. -/
  | running (body tail : List PinOp) (fin : Completion)
deriving DecidableEq, Repr, Inhabited

/-- The local variables of the command in flight, part of SEQ. -/
structure Locals where
  /-- `a`: the bit the last `Send` sampled; none before the command's first sample (R69). -/
  ack : Option Level
  /-- `v`: the byte `Recv` is assembling (R70). -/
  shift : Byte
  /-- The byte the last `Recv` returned; none before the command's first (R70). -/
  rx : Option Byte
  /-- `n`: completed payload bytes (R81). -/
  count : BitVec 8
  /-- The phase `Fail` was entered with; none on the way to `Finish` (R81). -/
  phase : Phase
  /-- An export or unexport failed (R73, R74). -/
  failed : Bool
  /-- The rest of the body is skipped (R73, R81). -/
  abort : Bool
deriving DecidableEq, Repr, Inhabited

/-- The pin state of R29, meaningful only while the block owns the pins. -/
structure Pins where
  sclLat : Level
  sclDir : Dir
  sdaLat : Level
  sdaDir : Dir
deriving DecidableEq, Repr, Inhabited

/-- The bus environment (R8): the answers it will give next, oldest first, and how many it has given. -/
structure Env where
  answers : List Bool
  draws : Nat
deriving DecidableEq, Repr, Inhabited

/-- What the host (or the platform, for reset) does next (R47, R104). Offsets are from BBM_BASE (R60). -/
inductive HostAction where
  /-- `MemWrite(BBM_BASE + off, bytes, v)`. -/
  | write (off bytes : Nat) (v : Word)
  /-- `MemRead(BBM_BASE + off, bytes)`. -/
  | read (off bytes : Nat)
  /-- `if ERR = 0 then R off`, on the STATUS word the last WAIT read (R61). -/
  | readIfOk (off : Nat)
  /-- The loop WAIT of R61. -/
  | wait
  /-- The host makes no access: the engine takes one step. -/
  | tick
  /-- The platform asserts reset (R102). -/
  | reset
deriving DecidableEq, Repr, Inhabited

/-- DATA as a list of its set bytes, addresses strictly rising and below 256; an unlisted byte is UNSET (R37). -/
abbrev Memory := List Host.Cell

/-- The whole state (R40). -/
structure State where
  /-- STATUS.BUSY (R17, R20). -/
  busy : Bool
  /-- STATUS.OPEN (R20). -/
  isOpen : Bool
  /-- STATUS.NACK: the last acknowledge bit, `true` = not acknowledged (R20). -/
  nack : Level
  /-- STATUS.ERR (R20, R87). -/
  err : Err
  /-- STATUS.NPHASE (R20). -/
  nphase : Phase
  /-- STATUS.XCOUNT (R20). -/
  xcount : BitVec 8
  /-- PINCFG.SCL_PIN (R21). -/
  cfgScl : PinNum
  /-- PINCFG.SDA_PIN (R21). -/
  cfgSda : PinNum
  /-- ACTPINS.SCL (R22). -/
  actScl : PinNum
  /-- ACTPINS.SDA (R22). -/
  actSda : PinNum
  /-- ADDR.SADDR (R23). -/
  saddr : Byte
  /-- RXDATA.RXBYTE (R24). -/
  rxbyte : Byte
  /-- The pin latches and directions (R29). -/
  pins : Pins
  /-- DATA (R37). -/
  data : Memory
  /-- CUR (R17). -/
  cur : Word
  /-- SEQ (R17). -/
  seq : EngineSeq
  /-- The procedures' local variables, part of SEQ (R17). -/
  loc : Locals
  /-- TRACE, oldest event first (R35). -/
  trace : List PinEvent
  /-- FAULTED, with the reason of the fault (R38, R88). -/
  faulted : Option Fault
  /-- The bus environment (R8); the model's own field. -/
  env : Env
  /-- The host's accesses still to come, in program order (R47); the model's own field. -/
  host : List HostAction
  /-- What the host's reads returned, oldest first; the model's own field. -/
  reads : List Word
  /-- How many free words the host's reads have returned (R27); the model's own field. -/
  readDraws : Nat
deriving DecidableEq, Repr, Inhabited

/-- No local variable holds anything. -/
def Locals.init : Locals :=
  { ack := none, shift := 0, rx := none, count := 0, phase := .none, failed := false, abort := false }

/-- The pin state while the block owns no pin. DESIGN CHOICE (unsafe; notes/assumptions/10.md): R29 says that none of it
exists then. -/
def Pins.unowned : Pins := { sclLat := false, sclDir := .inp, sdaLat := false, sdaDir := .inp }

/-- The machine right after power-on reset (R39, R102). The values of `pins`, `cur`, `seq`, `loc`, `env`, `host`,
`reads` and `readDraws` are DESIGN CHOICE (unsafe; notes/assumptions/10.md, 11.md, 23.md). -/
def State.reset : State :=
  { busy := false, isOpen := false, nack := false, err := .none, nphase := .none, xcount := 0
    cfgScl := 0, cfgSda := 0, actScl := 0, actSda := 0, saddr := 0, rxbyte := 0
    pins := Pins.unowned, data := [], cur := 0, seq := .idle, loc := Locals.init, trace := []
    faulted := none, env := { answers := [], draws := 0 }, host := [], reads := [], readDraws := 0 }

end Sys2Proof.Machine
end

