-- ==== Sys2Proof/Machine/Ops.lean ====
section
/-! DEFINITION. The named operations over DATA, the pins and the engine's variables: the pin primitives of R13, the
running of a command's pin operations, the completion step and `raise Error` (R17, R91), and the fault mark (R88). -/

namespace Sys2Proof.Machine

-- ## DATA (R37)

/-- The byte at an index; none = UNSET. -/
def memRead (m : Memory) (a : Nat) : Option Byte :=
  match m with
  | [] => none
  | (x, v) :: rest => if x = a then some v else memRead rest a

/-- Set the byte at an index, in address order. -/
def memWrite (m : Memory) (a : Nat) (b : Byte) : Memory :=
  match m with
  | [] => [(a, b)]
  | (x, v) :: rest =>
    if a < x then (a, b) :: (x, v) :: rest
    else if a = x then (a, b) :: rest
    else (x, v) :: memWrite rest a b

/-- Every listed address is at least `lo`, below 256, and above the one before it. -/
def memWfFrom (lo : Nat) (m : Memory) : Bool :=
  match m with
  | [] => true
  | (x, _) :: rest => decide (lo ≤ x) && decide (x < 256) && memWfFrom (x + 1) rest

/-- DATA is in its one canonical form: addresses strictly rising, all below 256. -/
def Memory.wf (m : Memory) : Bool := memWfFrom 0 m

-- ## Pins, trace and draws

/-- Append an event to TRACE (R35). -/
def emit (e : PinEvent) (s : State) : State := { s with trace := s.trace ++ [e] }

/-- The environment's next answer, and the environment after it: the next listed answer, or a free value where none is
listed (R8, R31). -/
def Env.next (e : Env) : Bool × Env :=
  match e.answers with
  | [] => (Config.freeBit e.draws, { answers := [], draws := e.draws + 1 })
  | b :: rest => (b, { answers := rest, draws := e.draws + 1 })

/-- One draw: an answer of the bus environment (R12). -/
def draw (s : State) : Bool × State := (s.env.next.1, { s with env := s.env.next.2 })

/-- Set the output latch of a line. -/
def Pins.setLatch (p : Pins) (l : Line) (v : Level) : Pins :=
  match l with
  | .scl => { p with sclLat := v }
  | .sda => { p with sdaLat := v }

/-- The latch a pin has right after its direction becomes OUT (R30). -/
def redirectLatch (r : Redirect) (old : Level) : Level :=
  match r with
  | .latch => old
  | .low => false

/-- Set the direction of a line, under a value of SDA_OUT_ON_REDIRECT (R30): OUT may clear the latch, IN keeps it. -/
def Pins.setDir (p : Pins) (r : Redirect) (l : Line) (d : Dir) : Pins :=
  match l, d with
  | .scl, .out => { p with sclDir := .out, sclLat := redirectLatch r p.sclLat }
  | .scl, .inp => { p with sclDir := .inp }
  | .sda, .out => { p with sdaDir := .out, sdaLat := redirectLatch r p.sdaLat }
  | .sda, .inp => { p with sdaDir := .inp }

/-- A pin handed to the block: no output until its direction is set, and its latch what it held before (R34, R117). -/
def Pins.handOver (p : Pins) (l : Line) (old : Level) : Pins :=
  match l with
  | .scl => { p with sclDir := .inp, sclLat := old }
  | .sda => { p with sdaDir := .inp, sdaLat := old }

/-- A pin handed back: the block drives it no more (R34, R116). -/
def Pins.release (p : Pins) (l : Line) : Pins :=
  match l with
  | .scl => { p with sclDir := .inp }
  | .sda => { p with sdaDir := .inp }

/-- `PinSet(p, v)` (R13). It always succeeds (R32). -/
def pinSet (p : Pin) (v : Level) (s : State) : State :=
  emit (.level p v) { s with pins := s.pins.setLatch p.line v }

/-- `PinDir(p, d)` (R13, R30). It always succeeds (R32). -/
def pinDir (p : Pin) (d : Dir) (s : State) : State :=
  emit (.dir p d) { s with pins := s.pins.setDir Config.sdaOutOnRedirect p.line d }

/-- The level a line has while its pin is an output: the latch; none while it is an input, where the level is the
peer's (R31). -/
def Pins.driven (p : Pins) (l : Line) : Option Level :=
  match l with
  | .scl => if p.sclDir = .out then some p.sclLat else none
  | .sda => if p.sdaDir = .out then some p.sdaLat else none

/-- The line level a sample sees: the driven level, or a draw (R31). -/
def sampleLine (p : Pin) (s : State) : Level × State :=
  match s.pins.driven p.line with
  | some v => (v, s)
  | none => draw s

/-- `PinGet(p)` (R13, R31). Every command samples SDA, and only while it is an input, so its level is a draw. -/
def pinGet (p : Pin) (s : State) : Level × State :=
  let d := sampleLine p s
  (d.1, emit (.sample p d.1) d.2)

/-- `PinExport(p)` (R13, R34). The result is a draw. What the latch of a pin holds when the block first owns it is a
free value (R117). -/
def pinExport (p : Pin) (s : State) : Bool × State :=
  let d := draw s
  let pins := if d.1 then s.pins.handOver p.line (Config.freeLatch s.env.draws) else s.pins
  (d.1, emit (.exported p d.1) { d.2 with pins := pins })

/-- `PinUnexport(p)` (R13, R34). The result is a draw. -/
def pinUnexport (p : Pin) (s : State) : Bool × State :=
  let d := draw s
  (d.1, emit (.unexported p d.1) d.2)

-- ## The procedures' local variables

/-- The phase `Fail` is entered with when a `Send` in this role is not acknowledged (R81). -/
def SendRole.failPhase (r : SendRole) : Phase :=
  match r with
  | .host => .none
  | .addrWrite => .addrWrite
  | .command => .command
  | .data => .data
  | .addrRead => .addrRead

/-- A nack on this `Send` aborts the command: every `Send` of an ACCESS, never the host's SEND (R69, R81). -/
def SendRole.aborts (r : SendRole) : Bool :=
  match r with
  | .host => false
  | .addrWrite => true
  | .command => true
  | .data => true
  | .addrRead => true

/-- What ACCESS does with the bit a `Send` returned (R81, R82): abort on a nack, count an acknowledged data byte. -/
def Locals.afterSend (l : Locals) (role : SendRole) : Locals :=
  if l.ack = some true then
    if role.aborts then { l with abort := true, phase := role.failPhase } else l
  else if role = .data then { l with count := l.count + 1 }
  else l

/-- `v <- v | (b << i)` (R70). -/
def Locals.shiftIn (l : Locals) (i : Nat) (b : Level) : Locals :=
  { l with shift := l.shift ||| ((BitVec.ofBool b).setWidth 8 <<< i) }

/-- OPEN after an export: a failure ends the command (R73). -/
def Locals.afterExport (l : Locals) (ok : Bool) : Locals := if ok then l else { l with failed := true, abort := true }

/-- CLOSE after an unexport: a failure is noted and the command goes on (R74). -/
def Locals.afterUnexport (l : Locals) (ok : Bool) : Locals := if ok then l else { l with failed := true }

/-- The procedures' variables take a value. -/
def setLoc (l : Locals) (s : State) : State := { s with loc := l }

/-- `Recv` returns `v`; inside ACCESS.R the byte goes to DATA and is counted (R70, R83). -/
def storeRecv (dst : Option (BitVec 8)) (s : State) : State :=
  match dst with
  | none => setLoc { s.loc with rx := some s.loc.shift } s
  | some i =>
    { s with
      loc := { s.loc with rx := some s.loc.shift, count := s.loc.count + 1 }
      data := memWrite s.data i.toNat s.loc.shift }

-- ## Running pin operations

/-- Do one pin operation: exactly one pin primitive, so exactly one event (R35). -/
def doOp (op : PinOp) (s : State) : State :=
  match op with
  | .set p v => pinSet p v s
  | .dir p d => pinDir p d s
  | .getAck p =>
    let g := pinGet p s
    setLoc { s.loc with ack := some g.1 } g.2
  | .endSend p role => setLoc (s.loc.afterSend role) (pinSet p false s)
  | .beginRecv p => setLoc { s.loc with shift := 0 } (pinDir p .inp s)
  | .getBit p i =>
    let g := pinGet p s
    setLoc (s.loc.shiftIn i g.1) g.2
  | .endRecv p dst => storeRecv dst (pinDir p .out s)
  | .exportPin p =>
    let x := pinExport p s
    setLoc (s.loc.afterExport x.1) x.2
  | .unexportPin p =>
    let x := pinUnexport p s
    setLoc (s.loc.afterUnexport x.1) x.2

/-- Do the operations in order, skipping the rest once one of them aborts the command (R73, R81). -/
def runBody (ops : List PinOp) (s : State) : State :=
  match ops with
  | [] => s
  | op :: rest => if (doOp op s).loc.abort then doOp op s else runBody rest (doOp op s)

/-- Do all the operations in order. -/
def runTail (ops : List PinOp) (s : State) : State :=
  match ops with
  | [] => s
  | op :: rest => runTail rest (doOp op s)

-- ## Completion and errors

/-- NACK and RXDATA take what the command's `Send`s and `Recv`s left, and keep their values where it had none (R69,
R70). -/
def commitLocals (s : State) : State :=
  { s with nack := s.loc.ack.getD s.nack, rxbyte := s.loc.rx.getD s.rxbyte }

/-- `Finish` or `Fail` as the phase says (R81). -/
def commitAccess (s : State) : State :=
  { commitLocals s with
    err := if s.loc.phase = .none then .none else .nack
    nphase := s.loc.phase
    xcount := s.loc.count }

/-- What OPEN's completion writes (R73). On a failed export the block owns no pin. -/
def commitOpen (scl sda : PinNum) (s : State) : State :=
  if s.loc.failed then { s with err := .resource, pins := Pins.unowned }
  else { s with actScl := scl, actSda := sda, isOpen := true, err := .none }

/-- What CLOSE's completion writes (R74). -/
def commitClose (s : State) : State :=
  { s with
    saddr := 0
    actScl := 0
    actSda := 0
    isOpen := false
    err := if s.loc.failed then .resource else .none
    pins := Pins.unowned }

/-- The result fields a completion writes. Every completion writes ERR (R20). -/
def commit (fin : Completion) (s : State) : State :=
  match fin with
  | .report e => { s with err := e }
  | .setAddr a7 => { s with saddr := a7 ++ 0#1, err := .none }
  | .engine => { commitLocals s with err := .none }
  | .access => commitAccess s
  | .opened scl sda => commitOpen scl sda s
  | .closed => commitClose s

/-- The engine is at rest: BUSY = 0, and SEQ and the procedures' variables hold nothing (R17). -/
def toIdle (s : State) : State := { s with busy := false, seq := .idle, loc := Locals.init }

/-- The completion step `complete()`: the result fields and `STATUS.BUSY <- 0`, all at once (R17). With
`.report e` it is `raise Error(e)`, the block's one way of taking an error: no state is saved, no mode changes, and
there is no return from it (R91, R92). -/
def complete (fin : Completion) (s : State) : State := toIdle (commit fin s)

/-- The rest of a command, from the operations still to do to its completion step. -/
def finish (body tail : List PinOp) (fin : Completion) (s : State) : State :=
  complete fin (runTail tail (runBody body s))

-- ## Model faults

/-- `fault(r)`: set the mark FAULTED (R38, R88). A mark already set is kept. -/
def markFault (r : Fault) (s : State) : State := { s with faulted := some (s.faulted.getD r) }

/-- A command that meets a model fault before its first pin event: the mark is set, no event is issued and no result
field is written (R82, R88). BUSY returns to 0: DEDUCED from vector ACC-6 (unsafe; notes/assumptions/7.md). -/
def abandon (r : Fault) (s : State) : State := toIdle (markFault r s)

-- ## Commands as plans

/-- What a command will do, decided from its operands and the state at its start. -/
inductive Plan where
  /-- Do `body` (an abort skips the rest of it), then `tail`, then the completion step. -/
  | run (body tail : List PinOp) (fin : Completion)
  /-- A model fault before the first pin event. -/
  | fault (r : Fault)
deriving DecidableEq, Repr, Inhabited

/-- The plan that issues no pin event: straight to the completion step (R17). -/
def planDone (fin : Completion) : Plan := .run [] [] fin

/-- Run a whole plan, from the command's start to its completion step. -/
def runPlan (p : Plan) (s : State) : State :=
  match p with
  | .run body tail fin => finish body tail fin { s with loc := Locals.init }
  | .fault r => abandon r s

/-- A host write of a command word to CMD while BUSY = 0 (R17). -/
def acceptCommand (w : Word) (s : State) : State := { s with cur := w, busy := true, seq := .start }

end Sys2Proof.Machine
end

