-- ==== Sys2Proof/Machine/Operands.lean ====
section
/-! DEFINITION. The operands of the commands: the pins, the payload length, the payload and the address bytes (R55,
R56, R64, R79, R80). -/

namespace Sys2Proof.Machine

/-- The pins ACTPINS names. -/
def activeWires (s : State) : Wires := { scl := ⟨.scl, s.actScl⟩, sda := ⟨.sda, s.actSda⟩ }

/-- The pins PINCFG names. -/
def configuredWires (s : State) : Wires := { scl := ⟨.scl, s.cfgScl⟩, sda := ⟨.sda, s.cfgSda⟩ }

/-- `unconf`: an active pin number is 0 (R64). -/
def unconf (s : State) : Bool := s.actScl == 0 || s.actSda == 0

/-- The payload length `len` of a size class and the LEN field (R56, R79). -/
def payloadLen (size : SizeClass) (len : BitVec 8) : Nat :=
  match size with
  | .quick => 0
  | .byte => 1
  | .word => 2
  | .block => len.toNat

/-- `SADDR | 0`, the address byte of the write direction (R80). -/
def addrWriteByte (s : State) : Byte := s.saddr ||| 0

/-- `SADDR | 1`, the address byte of the read direction (R80). -/
def addrReadByte (s : State) : Byte := s.saddr ||| 1

/-- `DATA[i..i+n-1]`; none where one of them is UNSET (R37, R82). -/
def payloadFrom (m : Memory) (i n : Nat) : Option (List Byte) :=
  match n with
  | 0 => some []
  | k + 1 =>
    match memRead m i, payloadFrom m (i + 1) k with
    | some b, some bs => some (b :: bs)
    | _, _ => none

/-- `DATA[0..len-1]` (R79, R82). -/
def payload (s : State) (len : Nat) : Option (List Byte) := payloadFrom s.data 0 len

/-- The precondition of both ACCESS commands fails: no bus open, or no slave addressed (R78). -/
def accessBlocked (s : State) : Bool := !s.isOpen || s.saddr == 0

/-- A DATA word, little-endian from its first byte's index; none where a byte is UNSET (R44). -/
def dataWord (m : Memory) (a : Nat) : Option Word :=
  match memRead m a, memRead m (a + 1), memRead m (a + 2), memRead m (a + 3) with
  | some b0, some b1, some b2, some b3 => some (b3 ++ b2 ++ b1 ++ b0)
  | _, _, _, _ => none

/-- Set the four bytes of a DATA word, little-endian (R44). -/
def setDataWord (m : Memory) (a : Nat) (v : Word) : Memory :=
  memWrite (memWrite (memWrite (memWrite m a (v.extractLsb' 0 8)) (a + 1) (v.extractLsb' 8 8))
    (a + 2) (v.extractLsb' 16 8)) (a + 3) (v.extractLsb' 24 8)

end Sys2Proof.Machine
end

