-- ==== Sys2Proof/Machine/Flags.lean ====
section
/-! DEFINITION. The codes of the flags and the registers as the host reads them (R18 to R27, R87). -/

namespace Sys2Proof.Machine

/-- The number of an error code (R87). -/
def Err.code (e : Err) : BitVec 4 :=
  match e with
  | .none => 0
  | .nack => 1
  | .precondition => 2
  | .descriptor => 3
  | .resource => 4
  | .unconfigured => 5
  | .illegalCmd => 6

/-- The number of a phase (R20). -/
def Phase.code (p : Phase) : BitVec 3 :=
  match p with
  | .none => 0
  | .addrWrite => 1
  | .command => 2
  | .data => 3
  | .addrRead => 4

/-- STATUS (R20): reserved fields read 0. -/
def statusWord (s : State) : Word :=
  0#8 ++ s.xcount ++ 0#5 ++ s.nphase.code ++ s.err.code ++ 0#1 ++ BitVec.ofBool s.nack ++ BitVec.ofBool s.isOpen ++
    BitVec.ofBool s.busy

/-- PINCFG (R21). -/
def pincfgWord (s : State) : Word := s.cfgSda ++ s.cfgScl

/-- ACTPINS (R22). -/
def actpinsWord (s : State) : Word := s.actSda ++ s.actScl

/-- ADDR (R23). -/
def addrWord (s : State) : Word := 0#24 ++ s.saddr

/-- RXDATA (R24). -/
def rxdataWord (s : State) : Word := 0#24 ++ s.rxbyte

/-- SDA_OUT: 1 while the direction is OUT (R25). -/
def Dir.bit (d : Dir) : BitVec 1 :=
  match d with
  | .out => 1
  | .inp => 0

/-- LINES (R25): the pin state while the bus is open, 0 otherwise. -/
def linesWord (s : State) : Word :=
  if s.isOpen then 0#29 ++ BitVec.ofBool s.pins.sdaLat ++ s.pins.sdaDir.bit ++ BitVec.ofBool s.pins.sclLat else 0

/-- ERR of a STATUS word the host has read is NONE (R61, R85). -/
def statusOk (w : Word) : Bool := w.extractLsb' 4 4 == 0#4

end Sys2Proof.Machine
end

