-- ==== Sys2Proof/Machine/Engine.lean ====
section
/-! DEFINITION. The engine commands START, RESTART, STOP, SEND, RECV and ACK, and the procedures they and ACCESS are
made of (spec 40_engine.md). -/

namespace Sys2Proof.Machine

/-- `Start()` (R66). -/
def startOps (w : Wires) : List PinOp := [.set w.sda false, .set w.scl false]

/-- `Restart()` (R67): SDA rises before SCL. -/
def restartOps (w : Wires) : List PinOp :=
  [.set w.sda true, .set w.scl true, .set w.sda false, .set w.scl false]

/-- `Stop()` (R68). -/
def stopOps (w : Wires) : List PinOp := [.set w.scl true, .set w.sda true]

/-- The bit numbers of a byte in wire order, most significant first (R45). -/
def wireBits : List Nat := [7, 6, 5, 4, 3, 2, 1, 0]

/-- One data bit of `Send` (R69). -/
def sendBitOps (w : Wires) (v : Level) : List PinOp := [.set w.sda v, .set w.scl true, .set w.scl false]

/-- The acknowledge window of `Send`: the ninth clock (R69, R112). -/
def ackWindowOps (w : Wires) (role : SendRole) : List PinOp :=
  [.set w.scl true, .dir w.sda .inp, .getAck w.sda, .dir w.sda .out, .endSend w.scl role]

/-- `Send(b)` (R69). -/
def sendOps (w : Wires) (b : Byte) (role : SendRole) : List PinOp :=
  wireBits.flatMap (fun i => sendBitOps w (b.getLsbD i)) ++ ackWindowOps w role

/-- One data bit of `Recv` (R70). -/
def recvBitOps (w : Wires) (i : Nat) : List PinOp := [.set w.scl true, .getBit w.sda i, .set w.scl false]

/-- `Recv()` (R70); `dst` is the DATA index ACCESS.R stores the byte at. -/
def recvOps (w : Wires) (dst : Option (BitVec 8)) : List PinOp :=
  [.beginRecv w.sda] ++ wireBits.flatMap (recvBitOps w) ++ [.endRecv w.sda dst]

/-- `Ack()` (R71). -/
def ackOps (w : Wires) : List PinOp :=
  [.set w.sda false, .set w.scl true, .set w.scl false, .set w.sda true]

/-- The plan of an engine command: `refusal` where the pins are unconfigured, else its operations (R64). -/
def enginePlan (refusal : Err) (ops : List PinOp) (s : State) : Plan :=
  if unconf s then planDone (.report refusal) else .run ops [] .engine

/-- START: a silent no-op with the pins unconfigured (R64, R66). -/
def planStart (s : State) : Plan := enginePlan .none (startOps (activeWires s)) s

/-- RESTART: a silent no-op with the pins unconfigured (R64, R67). -/
def planRestart (s : State) : Plan := enginePlan .none (restartOps (activeWires s)) s

/-- STOP (R68). -/
def planStop (s : State) : Plan := enginePlan .unconfigured (stopOps (activeWires s)) s

/-- SEND (R69). -/
def planSend (b : BitVec 8) (s : State) : Plan := enginePlan .unconfigured (sendOps (activeWires s) b .host) s

/-- RECV (R70). -/
def planRecv (s : State) : Plan := enginePlan .unconfigured (recvOps (activeWires s) none) s

/-- ACK (R71). -/
def planAck (s : State) : Plan := enginePlan .unconfigured (ackOps (activeWires s)) s

/-- START, from its start to its completion step (R66). -/
def execStart (s : State) : Host.Outcome State Fault Refusal := .next (runPlan (planStart s) s)

/-- RESTART (R67). -/
def execRestart (s : State) : Host.Outcome State Fault Refusal := .next (runPlan (planRestart s) s)

/-- STOP (R68). -/
def execStop (s : State) : Host.Outcome State Fault Refusal := .next (runPlan (planStop s) s)

/-- SEND (R69). A nack is its result, not an error. -/
def execSend (b : BitVec 8) (s : State) : Host.Outcome State Fault Refusal := .next (runPlan (planSend b s) s)

/-- RECV (R70). -/
def execRecv (s : State) : Host.Outcome State Fault Refusal := .next (runPlan (planRecv s) s)

/-- ACK (R71). -/
def execAck (s : State) : Host.Outcome State Fault Refusal := .next (runPlan (planAck s) s)

end Sys2Proof.Machine
end

