-- ==== Sys2Proof/Machine/Access.lean ====
section
/-! DEFINITION. The generic access sequencer: ACCESS.W and ACCESS.R (spec 42_access.md). -/

namespace Sys2Proof.Machine

/-- The steps ACCESS.W may abort (R82): start, address, and, unless the payload is empty, the command byte and the
payload bytes in order. -/
def accessWriteBody (w : Wires) (aw cmdb : Byte) (bytes : List Byte) : List PinOp :=
  startOps w ++ sendOps w aw .addrWrite ++
    (if bytes.isEmpty then [] else sendOps w cmdb .command ++ bytes.flatMap (fun b => sendOps w b .data))

/-- The data phase of ACCESS.R (R83): `n` bytes to `DATA[i..]`, an acknowledge pulse after every one but the last. -/
def readBytesOps (w : Wires) (i n : Nat) : List PinOp :=
  match n with
  | 0 => []
  | 1 => recvOps w (some (BitVec.ofNat 8 i))
  | k + 2 => recvOps w (some (BitVec.ofNat 8 i)) ++ ackOps w ++ readBytesOps w (i + 1) (k + 1)

/-- The steps ACCESS.R may abort (R83). -/
def accessReadBody (w : Wires) (aw ar cmdb : Byte) (len : Nat) : List PinOp :=
  startOps w ++ sendOps w aw .addrWrite ++ (if len = 0 then [] else sendOps w cmdb .command) ++
    restartOps w ++ sendOps w ar .addrRead ++ readBytesOps w 0 len

/-- ACCESS.W (R78 to R82). The payload cannot change while the command runs (R51), so it is read at the start. -/
def planAccessW (size : SizeClass) (len : BitVec 8) (cmdb : BitVec 8) (s : State) : Plan :=
  if accessBlocked s then planDone (.report .precondition)
  else
    match payload s (payloadLen size len) with
    | none => .fault .unsetData
    | some bytes =>
      .run (accessWriteBody (activeWires s) (addrWriteByte s) cmdb bytes) (stopOps (activeWires s)) .access

/-- ACCESS.R (R78 to R81, R83). -/
def planAccessR (size : SizeClass) (len : BitVec 8) (cmdb : BitVec 8) (s : State) : Plan :=
  if accessBlocked s then planDone (.report .precondition)
  else
    .run (accessReadBody (activeWires s) (addrWriteByte s) (addrReadByte s) cmdb (payloadLen size len))
      (stopOps (activeWires s)) .access

/-- ACCESS.W, from its start to its completion step (R82). -/
def execAccessW (size : SizeClass) (len : BitVec 8) (cmdb : BitVec 8) (s : State) :
    Host.Outcome State Fault Refusal := .next (runPlan (planAccessW size len cmdb s) s)

/-- ACCESS.R, from its start to its completion step (R83). -/
def execAccessR (size : SizeClass) (len : BitVec 8) (cmdb : BitVec 8) (s : State) :
    Host.Outcome State Fault Refusal := .next (runPlan (planAccessR size len cmdb s) s)

end Sys2Proof.Machine
end

