-- ==== Sys2Proof/Machine/Bus.lean ====
section
/-! DEFINITION. The configuration commands OPEN, CLOSE and SETADDR (spec 41_dispatch.md). -/

namespace Sys2Proof.Machine

/-- The pin operations of OPEN (R73): both exports, both directions, then the bus idle, clock before data. -/
def openOps (w : Wires) : List PinOp :=
  [.exportPin w.scl, .exportPin w.sda, .dir w.scl .out, .dir w.sda .out, .set w.scl true, .set w.sda true]

/-- PINCFG names no usable pair: a zero pin number, or the same number twice (R73). -/
def badDescriptor (s : State) : Bool := s.cfgScl == 0 || s.cfgSda == 0 || s.cfgScl == s.cfgSda

/-- OPEN (R73), its checks in the order of R90. -/
def planOpen (s : State) : Plan :=
  if s.isOpen then planDone (.report .precondition)
  else if badDescriptor s then planDone (.report .descriptor)
  else .run (openOps (configuredWires s)) [] (.opened s.cfgScl s.cfgSda)

/-- The pin operations of CLOSE (R74): SCL, then SDA, even where the first failed. -/
def closeOps (w : Wires) : List PinOp := [.unexportPin w.scl, .unexportPin w.sda]

/-- CLOSE (R74): with no bus open it issues no pin event and still clears the address. -/
def planClose (s : State) : Plan :=
  .run (if s.isOpen then closeOps (activeWires s) else []) [] .closed

/-- SETADDR (R75). -/
def planSetAddr (a7 : BitVec 7) (s : State) : Plan :=
  if s.isOpen then planDone (.setAddr a7) else planDone (.report .precondition)

/-- OPEN, from its start to its completion step (R73). -/
def execOpen (s : State) : Host.Outcome State Fault Refusal := .next (runPlan (planOpen s) s)

/-- CLOSE (R74). -/
def execClose (s : State) : Host.Outcome State Fault Refusal := .next (runPlan (planClose s) s)

/-- SETADDR (R75). -/
def execSetAddr (a7 : BitVec 7) (s : State) : Host.Outcome State Fault Refusal := .next (runPlan (planSetAddr a7 s) s)

end Sys2Proof.Machine
end

