-- ==== Sys2Proof/Machine/Dispatch.lean ====
section
/-! DEFINITION. The dispatch from a command to its meaning: one arm per row of spec/opcode_table.json. -/

namespace Sys2Proof.Machine

/-- Run a whole command, from its start to its completion step. -/
def exec (i : Instr) (s : State) : Host.Outcome State Fault Refusal :=
  match i with
  | .start => Sys2Proof.Machine.execStart s
  | .restart => Sys2Proof.Machine.execRestart s
  | .stop => Sys2Proof.Machine.execStop s
  | .send b => Sys2Proof.Machine.execSend b s
  | .recv => Sys2Proof.Machine.execRecv s
  | .ack => Sys2Proof.Machine.execAck s
  | .setaddr a7 => Sys2Proof.Machine.execSetAddr a7 s
  | .accessW size len cmdb => Sys2Proof.Machine.execAccessW size len cmdb s
  | .accessR size len cmdb => Sys2Proof.Machine.execAccessR size len cmdb s
  | .openBus => Sys2Proof.Machine.execOpen s
  | .closeBus => Sys2Proof.Machine.execClose s

end Sys2Proof.Machine
end

