-- ==== Sys2Proof/WellFormed.lean ====
section
/-! DEFINITION. Well-formed assembler lines (R60: "An operand out of range is an assembly error, never a truncation").
A command (Instr) needs no check of its own: its operands have the widths of its format, so every value of Instr is
a legal command. -/

namespace Sys2Proof

/-- The block length of a line: 0 to 255 for BLOCK; QUICK, BYTE and WORD are written with LEN = 0 (R60). -/
def SizeClass.lengthOk (size : SizeClass) (n : Nat) : Bool :=
  match size with
  | .quick => n == 0
  | .byte => n == 0
  | .word => n == 0
  | .block => decide (n ≤ 255)

/-- Every operand of the line is in the range of R60: `b` and `c` in 0..255, `a` in 0..127, `n` in 0..255. -/
def AsmLine.wellFormed (l : AsmLine) : Bool :=
  match l with
  | .start => true
  | .restart => true
  | .stop => true
  | .send b => decide (b ≤ 255)
  | .recv => true
  | .ack => true
  | .setaddr a => decide (a ≤ 127)
  | .accessW c size n => decide (c ≤ 255) && size.lengthOk n
  | .accessR c size n => decide (c ≤ 255) && size.lengthOk n
  | .openBus => true
  | .closeBus => true

end Sys2Proof
end

