-- ==== Sys2Proof/Decode.lean ====
section
/-! DEFINITION. The command decoder (R53 to R58), then the encoder, the opcode map of R57, and the assembler's last
step (R60). -/

namespace Sys2Proof

/-- Why a word is illegal (R58). -/
inductive DecodeError where
  /-- OP is 0x0 or 0xA to 0xF. -/
  | reservedOp
  /-- OP is 0x1 to 0x9 and a bit its format marks 0 is 1. -/
  | reservedBits
deriving DecidableEq, Repr, Inhabited

/-- OP, bits 31:28 of a command word (R53). -/
def opField (w : Word) : BitVec 4 := w.extractLsb' 28 4

/-- The SIZE field's class (R56). -/
def sizeOfField (f : BitVec 2) : SizeClass :=
  match f with
  | 0#2 => .quick
  | 1#2 => .byte
  | 2#2 => .word
  | 3#2 => .block

/-- SIZE as a field (R56). -/
def sizeField (s : SizeClass) : BitVec 2 :=
  match s with
  | .quick => 0
  | .byte => 1
  | .word => 2
  | .block => 3

/-- The command `i` if the bits its format reserves, read as one number, are zero; otherwise illegal (R58). -/
def ifReservedZero {n : Nat} (reserved : BitVec n) (i : Instr) : Except DecodeError Instr :=
  if reserved = 0 then .ok i else .error .reservedBits

/-- Decode a command word (R53 to R58). Total: every word is one of the 11 commands or illegal (R59). -/
def decode (w : Word) : Except DecodeError Instr :=
  match opField w with
  | 0x1#4 =>
    ifReservedZero (w.extractLsb' 1 27) (if w.extractLsb' 0 1 = 1#1 then .restart else .start)
  | 0x2#4 => ifReservedZero (w.extractLsb' 0 28) .stop
  | 0x3#4 => ifReservedZero (w.extractLsb' 8 20) (.send (w.extractLsb' 0 8))
  | 0x4#4 => ifReservedZero (w.extractLsb' 0 28) .recv
  | 0x5#4 => ifReservedZero (w.extractLsb' 0 28) .ack
  | 0x6#4 => ifReservedZero (w.extractLsb' 7 21) (.setaddr (w.extractLsb' 0 7))
  | 0x7#4 =>
    let size := sizeOfField (w.extractLsb' 24 2)
    let len := w.extractLsb' 16 8
    let cmdb := w.extractLsb' 0 8
    ifReservedZero (w.extractLsb' 26 1 ++ w.extractLsb' 8 8)
      (if w.extractLsb' 27 1 = 1#1 then .accessR size len cmdb else .accessW size len cmdb)
  | 0x8#4 => ifReservedZero (w.extractLsb' 0 28) .openBus
  | 0x9#4 => ifReservedZero (w.extractLsb' 0 28) .closeBus
  | _ => .error .reservedOp

/-- The command an instruction word of the opcode table gives. A command is ONE 32-bit word written to CMD (R53), so
the table's bit numbers are the word's own. -/
def decodeTableWord (nbits w : Nat) : Option Instr :=
  if nbits ≤ 32 then
    match decode (BitVec.ofNat 32 (w % 2 ^ nbits)) with
    | .ok i => some i
    | .error _ => none
  else none

/-- The command word of a command, its fields laid out as the formats of R54 give them, most significant first. -/
def encode (i : Instr) : Word :=
  match i with
  | .start => 0x1#4 ++ 0#27 ++ 0#1
  | .restart => 0x1#4 ++ 0#27 ++ 1#1
  | .stop => 0x2#4 ++ 0#28
  | .send b => 0x3#4 ++ 0#20 ++ b
  | .recv => 0x4#4 ++ 0#28
  | .ack => 0x5#4 ++ 0#28
  | .setaddr a7 => 0x6#4 ++ 0#21 ++ a7
  | .accessW size len cmdb => 0x7#4 ++ 0#1 ++ 0#1 ++ sizeField size ++ len ++ 0#8 ++ cmdb
  | .accessR size len cmdb => 0x7#4 ++ 1#1 ++ 0#1 ++ sizeField size ++ len ++ 0#8 ++ cmdb
  | .openBus => 0x8#4 ++ 0#28
  | .closeBus => 0x9#4 ++ 0#28

/-- A row of the opcode map (R57): a word `w` is the command when `w & mask = pattern`. -/
structure OpcodeRow where
  mnemonic : String
  pattern : Word
  mask : Word
deriving DecidableEq, Repr

/-- The 11 commands of R57 with their match and mask. -/
def opcodeMap : List OpcodeRow :=
  [ ⟨"START", 0x10000000, 0xFFFFFFFF⟩,
    ⟨"RESTART", 0x10000001, 0xFFFFFFFF⟩,
    ⟨"STOP", 0x20000000, 0xFFFFFFFF⟩,
    ⟨"SEND", 0x30000000, 0xFFFFFF00⟩,
    ⟨"RECV", 0x40000000, 0xFFFFFFFF⟩,
    ⟨"ACK", 0x50000000, 0xFFFFFFFF⟩,
    ⟨"SETADDR", 0x60000000, 0xFFFFFF80⟩,
    ⟨"ACCESS.W", 0x70000000, 0xFC00FF00⟩,
    ⟨"ACCESS.R", 0x78000000, 0xFC00FF00⟩,
    ⟨"OPEN", 0x80000000, 0xFFFFFFFF⟩,
    ⟨"CLOSE", 0x90000000, 0xFFFFFFFF⟩ ]

/-- The word matches the row (R57). -/
def OpcodeRow.admits (r : OpcodeRow) (w : Word) : Bool := w &&& r.mask == r.pattern

/-- The mnemonic of a command (R57). -/
def mnemonicOf (i : Instr) : String :=
  match i with
  | .start => "START"
  | .restart => "RESTART"
  | .stop => "STOP"
  | .send _ => "SEND"
  | .recv => "RECV"
  | .ack => "ACK"
  | .setaddr _ => "SETADDR"
  | .accessW _ _ _ => "ACCESS.W"
  | .accessR _ _ _ => "ACCESS.R"
  | .openBus => "OPEN"
  | .closeBus => "CLOSE"

/-- The command of an assembler line (R60); none where an operand is out of range, which is an assembly error. -/
def instrOfLine (l : AsmLine) : Option Instr :=
  if l.wellFormed then
    match l with
    | .start => some .start
    | .restart => some .restart
    | .stop => some .stop
    | .send b => some (.send (BitVec.ofNat 8 b))
    | .recv => some .recv
    | .ack => some .ack
    | .setaddr a => some (.setaddr (BitVec.ofNat 7 a))
    | .accessW c size n => some (.accessW size (BitVec.ofNat 8 n) (BitVec.ofNat 8 c))
    | .accessR c size n => some (.accessR size (BitVec.ofNat 8 n) (BitVec.ofNat 8 c))
    | .openBus => some .openBus
    | .closeBus => some .closeBus
  else none

/-- Assemble a line to its command word (R60). -/
def assemble (l : AsmLine) : Option Word := (instrOfLine l).map encode

end Sys2Proof
end

