-- ==== Sys2Proof/Machine/Sequencer.lean ====
section
/-! DEFINITION. The engine one step at a time: each step is one pin primitive of the command in flight, and the last is
its completion step (R8, R17). It runs the same plans as the meanings of the commands. -/

namespace Sys2Proof.Machine

/-- The plan of a command, decided when the engine takes its first step. -/
def planOf (i : Instr) (s : State) : Plan :=
  match i with
  | .start => planStart s
  | .restart => planRestart s
  | .stop => planStop s
  | .send b => planSend b s
  | .recv => planRecv s
  | .ack => planAck s
  | .setaddr a7 => planSetAddr a7 s
  | .accessW size len cmdb => planAccessW size len cmdb s
  | .accessR size len cmdb => planAccessR size len cmdb s
  | .openBus => planOpen s
  | .closeBus => planClose s

/-- The plan of an illegal word: refused with ILLEGAL_CMD and no pin event (R58). -/
def planIllegal : Plan := planDone (.report .illegalCmd)

/-- The plan of the word in CUR (R17, R58). -/
def planCur (s : State) : Plan :=
  match decode s.cur with
  | .ok i => planOf i s
  | .error _ => planIllegal

/-- One engine step with operations still to do: the next pin primitive, or the completion step (R17). -/
def advance (body tail : List PinOp) (fin : Completion) (s : State) : State :=
  match body with
  | op :: rest =>
    let t := doOp op s
    { t with seq := .running (if t.loc.abort then [] else rest) tail fin }
  | [] =>
    match tail with
    | op :: rest => { doOp op s with seq := .running [] rest fin }
    | [] => complete fin s

/-- The first step of a plan. -/
def beginPlan (p : Plan) (s : State) : State :=
  match p with
  | .run body tail fin => advance body tail fin { s with loc := Locals.init }
  | .fault r => abandon r s

/-- One step of the engine (R8, R17). -/
def engineStep (s : State) : State :=
  match s.seq with
  | .idle => s
  | .start => beginPlan (planCur s) s
  | .running body tail fin => advance body tail fin s

/-- `n` steps of the engine with no host access between them. -/
def engineSteps (n : Nat) (s : State) : State :=
  match n with
  | 0 => s
  | k + 1 => engineSteps k (engineStep s)

end Sys2Proof.Machine
end

