-- ==== Sys2Proof/Machine/Window.lean ====
section
/-! DEFINITION. The register window: the host's reads and writes (R18 to R27, R41 to R46, R88, R89, R104). -/

namespace Sys2Proof.Machine

/-- Offsets 0x200 and above are not decoded by the block (R42). -/
def outsideWindow (off : Nat) : Bool := decide (0x200 ≤ off)

/-- The access is not 32 bits wide, or not at a 4-byte-aligned offset (R43). -/
def badAccess (off bytes : Nat) : Bool := bytes != 4 || off % 4 != 0

/-- Offsets 0x01C to 0x0FC, the words between the registers and DATA (R42). -/
def reservedOffset (off : Nat) : Bool := decide (0x1C ≤ off) && decide (off < 0x100)

/-- The offset of a host address in the block's window; none outside it (R42). BBM_BASE is 512-byte aligned. -/
def windowOffset (addr : Nat) : Option Nat :=
  if Config.bbmBase ≤ addr ∧ addr < Config.bbmBase + 0x200 then some (addr - Config.bbmBase) else none

/-- `MemWrite(addr, bytes, v)` (R12); an address outside the window is not the block's. -/
def memWriteAction (addr bytes : Nat) (v : Word) : Option HostAction := (windowOffset addr).map (.write · bytes v)

/-- `MemRead(addr, bytes)` (R12); an address outside the window is not the block's. -/
def memReadAction (addr bytes : Nat) : Option HostAction := (windowOffset addr).map (.read · bytes)

/-- Store a 32-bit write at an aligned, decoded offset while BUSY = 0 (R19, R21, R26, R44). -/
def storeWord (off : Nat) (v : Word) (s : State) : State :=
  if 0x100 ≤ off then { s with data := setDataWord s.data (off - 0x100) v }
  else if off = 0x000 then acceptCommand v s
  else if off = 0x008 then { s with cfgScl := v.extractLsb' 0 16, cfgSda := v.extractLsb' 16 16 }
  else s

/-- A host write (R42, R43, R46, R89), its checks in the order of R90. -/
def hostWrite (off bytes : Nat) (v : Word) (s : State) : State :=
  if outsideWindow off then s
  else if s.busy then markFault .busyWrite s
  else if badAccess off bytes then markFault .badWidth s
  else if reservedOffset off then markFault .reservedOffset s
  else storeWord off v s

/-- A read returns `v` to the host. -/
def returnRead (v : Word) (s : State) : State := { s with reads := s.reads ++ [v] }

/-- A read whose value the spec leaves open returns a free word (R27, R46). -/
def returnFree (s : State) : State :=
  { s with reads := s.reads ++ [Config.freeWord s.readDraws], readDraws := s.readDraws + 1 }

/-- The registers whose value is open while BUSY = 1 (R27, R46): CMD reads 0 (R19). -/
def settledRegister (off : Nat) (s : State) : Word :=
  if off = 0x000 then 0
  else if off = 0x00C then actpinsWord s
  else if off = 0x010 then addrWord s
  else if off = 0x014 then rxdataWord s
  else linesWord s

/-- A 32-bit read at an aligned, decoded offset (R19 to R27, R37, R44). While BUSY = 1 every read but that of STATUS and
PINCFG returns a free word, CMD's too (R27, R46, 92_eei_decisions.md D13; DEDUCED for CMD, safe:
notes/assumptions/13.md). -/
def readWord (off : Nat) (s : State) : State :=
  if off = 0x004 then returnRead (statusWord s) s
  else if off = 0x008 then returnRead (pincfgWord s) s
  else if s.busy then returnFree s
  else if off < 0x100 then returnRead (settledRegister off s) s
  else
    match dataWord s.data (off - 0x100) with
    | some v => returnRead v s
    | none => markFault .unsetRead s

/-- A host read (R42, R43, R46), its checks in the order of R90. The platform answers outside the window. -/
def hostRead (off bytes : Nat) (s : State) : State :=
  if outsideWindow off then returnFree s
  else if badAccess off bytes then markFault .badWidth s
  else if reservedOffset off then markFault .reservedOffset s
  else readWord off s

/-- `if ERR = 0 then R off`, ERR being that of the STATUS word the last WAIT read (R61). -/
def hostReadIfOk (off : Nat) (s : State) : State :=
  match s.reads.getLast? with
  | some w => if statusOk w then hostRead off 4 s else s
  | none => s

/-- Reset (R102): the values of R39, but TRACE keeps the events already issued, and the agents around the block keep
their own state. -/
def resetAction (s : State) : State :=
  { State.reset with trace := s.trace, env := s.env, host := s.host, reads := s.reads, readDraws := s.readDraws }

end Sys2Proof.Machine
end

