-- ==== Sys2Proof/Machine/Host.lean ====
section
/-! DEFINITION. Turns of the host and the engine (R8, R47, R61, R104): what one step of the machine does. -/

namespace Sys2Proof.Machine

/-- The engine runs on until the command in flight has taken its completion step. At the command's start that is the
whole command: `exec` of it, or the refusal of an illegal word (R17, R58). -/
def runToCompletion (s : State) : Host.Outcome State Fault Refusal :=
  match s.seq with
  | .idle => .next s
  | .start =>
    match decode s.cur with
    | .ok i => exec i s
    | .error _ => .next (runPlan planIllegal s)
  | .running body tail fin => .next (finish body tail fin s)

/-- Drop the host's next action: it has been made. -/
def popHost (s : State) : State := { s with host := s.host.tail }

/-- WAIT (R61): while STATUS reads BUSY = 1 the host polls and the engine runs on; the poll that reads BUSY = 0 ends the
loop and returns STATUS to the host. -/
def waitTurn (s : State) : Host.Outcome State Fault Refusal :=
  if s.busy then runToCompletion s else .next (returnRead (statusWord s) (popHost s))

/-- The host's next action (R47, R104). -/
def hostTurn (a : HostAction) (s : State) : Host.Outcome State Fault Refusal :=
  match a with
  | .write off bytes v => .next (hostWrite off bytes v (popHost s))
  | .read off bytes => .next (hostRead off bytes (popHost s))
  | .readIfOk off => .next (hostReadIfOk off (popHost s))
  | .wait => waitTurn s
  | .tick => .next (engineStep (popHost s))
  | .reset => .next (resetAction (popHost s))

/-- A turn of an unmarked machine: the host's next action; with the host done, the engine runs on, and a block that is
not busy holds its state (R100). -/
def turn (s : State) : Host.Outcome State Fault Refusal :=
  match s.host with
  | [] => if s.busy then runToCompletion s else .next s
  | a :: _ => hostTurn a s

/-- One step. A machine marked FAULTED finishes the command in flight (R89) and then stops: the run is never complete
(R38, R105), and nothing is said of what the hardware does (R88). -/
def machineStep (s : State) : Host.Outcome State Fault Refusal :=
  match s.faulted with
  | none => turn s
  | some r => if s.busy then runToCompletion s else .fault r

end Sys2Proof.Machine
end

