-- ==== Sys2Proof/Machine/Step.lean ====
section
/-! DEFINITION. The step of the machine, and how an instruction is placed for it. -/

namespace Sys2Proof.Machine

/-- One step of the machine. -/
def step (s : State) : Host.Outcome State Fault Refusal := machineStep s

/-- The block fetches nothing (R16): a command runs because the host writes its word to CMD. This is the state in which
that write has been accepted (R17) and the host waits for the command (R61), so the next step runs it. The table gives
every command 32 bits; bits above `nbits` are 0. -/
def State.withFetchWord (s : State) (nbits w : Nat) : State :=
  let t := acceptCommand (BitVec.ofNat 32 (w % 2 ^ nbits)) s
  { t with host := .wait :: s.host }

end Sys2Proof.Machine
end

