-- ==== Sys2Proof/Machine/Assembler.lean ====
section
/-! DEFINITION. The assembler's text (R60), one command a line: mnemonics in upper case, decimal or 0x numbers, `;`
starts a comment. Host-side; the block never sees text. -/

namespace Sys2Proof.Machine

/-- The line up to its comment (R60). -/
def dropComment (cs : List Char) : List Char := cs.takeWhile (fun c => c != ';')

/-- Put a word before the tokens, unless it is empty. -/
def pushToken (w : List Char) (ts : List (List Char)) : List (List Char) := if w.isEmpty then ts else w :: ts

/-- Split a line at spaces and tabs; a comma is a token of its own. -/
def tokens (w : List Char) (cs : List Char) : List (List Char) :=
  match cs with
  | [] => pushToken w []
  | c :: rest =>
    if c = ' ' ∨ c = '\t' then pushToken w (tokens [] rest)
    else if c = ',' then pushToken w ([','] :: tokens [] rest)
    else tokens (w ++ [c]) rest

/-- The value of a digit in a base of at most 16. -/
def digitValue (base : Nat) (c : Char) : Option Nat :=
  let n := c.toNat
  let v :=
    if 48 ≤ n ∧ n ≤ 57 then n - 48
    else if 65 ≤ n ∧ n ≤ 70 then n - 55
    else if 97 ≤ n ∧ n ≤ 102 then n - 87
    else 16
  if v < base then some v else none

/-- Read digits after a value already read. -/
def digitsFrom (base acc : Nat) (cs : List Char) : Option Nat :=
  match cs with
  | [] => some acc
  | c :: rest =>
    match digitValue base c with
    | some d => digitsFrom base (acc * base + d) rest
    | none => none

/-- A number: decimal, or hexadecimal after 0x (R60). -/
def number (cs : List Char) : Option Nat :=
  match cs with
  | [] => none
  | '0' :: 'x' :: d :: ds => digitsFrom 16 0 (d :: ds)
  | d :: ds => digitsFrom 10 0 (d :: ds)

/-- The size class a token names, without a length (R60). -/
def sizeName (t : List Char) : Option SizeClass :=
  if t = ['Q', 'U', 'I', 'C', 'K'] then some .quick
  else if t = ['B', 'Y', 'T', 'E'] then some .byte
  else if t = ['W', 'O', 'R', 'D'] then some .word
  else none

/-- The token of BLOCK. -/
def blockName : List Char := ['B', 'L', 'O', 'C', 'K']

/-- The operands of ACCESS: `c, QUICK`, `c, BYTE`, `c, WORD` or `c, BLOCK, n` (R60). -/
def accessOperands (make : Nat → SizeClass → Nat → AsmLine) (ts : List (List Char)) : Option AsmLine :=
  match ts with
  | [c, [','], cls] =>
    match number c, sizeName cls with
    | some cv, some size => some (make cv size 0)
    | _, _ => none
  | [c, [','], cls, [','], n] =>
    match number c, number n with
    | some cv, some nv => if cls = blockName then some (make cv .block nv) else none
    | _, _ => none
  | _ => none

/-- A command with no operand. -/
def bareLine (l : AsmLine) (ts : List (List Char)) : Option AsmLine := if ts.isEmpty then some l else none

/-- A command with one number. -/
def numberLine (make : Nat → AsmLine) (ts : List (List Char)) : Option AsmLine :=
  match ts with
  | [n] => (number n).map make
  | _ => none

/-- Parse the tokens of a line (R60). -/
def lineOfTokens (ts : List (List Char)) : Option AsmLine :=
  match ts with
  | [] => none
  | m :: ops =>
    if m = ['S', 'T', 'A', 'R', 'T'] then bareLine .start ops
    else if m = ['R', 'E', 'S', 'T', 'A', 'R', 'T'] then bareLine .restart ops
    else if m = ['S', 'T', 'O', 'P'] then bareLine .stop ops
    else if m = ['S', 'E', 'N', 'D'] then numberLine .send ops
    else if m = ['R', 'E', 'C', 'V'] then bareLine .recv ops
    else if m = ['A', 'C', 'K'] then bareLine .ack ops
    else if m = ['S', 'E', 'T', 'A', 'D', 'D', 'R'] then numberLine .setaddr ops
    else if m = ['A', 'C', 'C', 'E', 'S', 'S', '.', 'W'] then accessOperands .accessW ops
    else if m = ['A', 'C', 'C', 'E', 'S', 'S', '.', 'R'] then accessOperands .accessR ops
    else if m = ['O', 'P', 'E', 'N'] then bareLine .openBus ops
    else if m = ['C', 'L', 'O', 'S', 'E'] then bareLine .closeBus ops
    else none

/-- The command word of one line of text; none for an assembly error or a line with no command (R60). -/
def assembleText (cs : List Char) : Option Word :=
  match lineOfTokens (tokens [] (dropComment cs)) with
  | some l => assemble l
  | none => none

end Sys2Proof.Machine
end

