-- ==== Sys2Proof/Machine/Events.lean ====
section
/-! DEFINITION. The traces the procedures leave, as the macros of 95_test_vectors.md section 0 name them, and the answers
of the bus environment they hold. No command reads any of it; statements and lemmas are written with it. -/

namespace Sys2Proof.Machine

/-- The next `n` answers of the bus environment, and the environment after them. -/
def envTake (n : Nat) (e : Env) : List Bool × Env :=
  match n with
  | 0 => ([], e)
  | k + 1 => (e.next.1 :: (envTake k e.next.2).1, (envTake k e.next.2).2)

/-- A byte's bits in wire order, most significant first (R45). -/
def wireOrder (b : Byte) : List Bool := wireBits.map b.getLsbD

/-- The byte whose bits come in wire order: the first is bit 7 (R65, R70). -/
def byteOfWire (bits : List Bool) : Byte := bits.foldl (fun v b => (v <<< 1) ||| (BitVec.ofBool b).setWidth 8) 0

/-- `L(SDA,0) L(SCL,0)` (R66). -/
def startEvents (w : Wires) : List PinEvent := [.level w.sda false, .level w.scl false]

/-- `L(SDA,1) L(SCL,1) L(SDA,0) L(SCL,0)` (R67). -/
def restartEvents (w : Wires) : List PinEvent :=
  [.level w.sda true, .level w.scl true, .level w.sda false, .level w.scl false]

/-- `L(SCL,1) L(SDA,1)` (R68). -/
def stopEvents (w : Wires) : List PinEvent := [.level w.scl true, .level w.sda true]

/-- `L(SDA,0) L(SCL,1) L(SCL,0) L(SDA,1)` (R71). -/
def ackEvents (w : Wires) : List PinEvent :=
  [.level w.sda false, .level w.scl true, .level w.scl false, .level w.sda true]

/-- The 29 events of `Send(b)` with the sampled bit `a` (R69). -/
def sendEvents (w : Wires) (b : Byte) (a : Level) : List PinEvent :=
  (wireOrder b).flatMap (fun v => [.level w.sda v, .level w.scl true, .level w.scl false]) ++
    [.level w.scl true, .dir w.sda .inp, .sample w.sda a, .dir w.sda .out, .level w.scl false]

/-- The 26 events of `Recv` with the sampled bits in wire order (R70). -/
def recvEvents (w : Wires) (bits : List Bool) : List PinEvent :=
  [.dir w.sda .inp] ++ bits.flatMap (fun b => [.level w.scl true, .sample w.sda b, .level w.scl false]) ++
    [.dir w.sda .out]

/-- The data phase of a read: each byte received, with an acknowledge pulse after every one but the last (R83). -/
def readEvents (w : Wires) (bytes : List Byte) : List PinEvent :=
  match bytes with
  | [] => []
  | [b] => recvEvents w (wireOrder b)
  | b :: c :: rest => recvEvents w (wireOrder b) ++ ackEvents w ++ readEvents w (c :: rest)

/-- DATA with bytes stored from an index on (R83). -/
def storeBytes (m : Memory) (i : Nat) (bytes : List Byte) : Memory :=
  match bytes with
  | [] => m
  | b :: rest => storeBytes (memWrite m i b) (i + 1) rest

/-- The bytes ACCESS.W sends when all are acknowledged (R82). -/
def writeWire (s : State) (cmdb : Byte) (bytes : List Byte) : List Byte :=
  (s.saddr ||| 0) :: (if bytes = [] then [] else cmdb :: bytes)

/-- The phase of the `k`-th byte ACCESS.W sends (R81). -/
def writePhase (k : Nat) : Phase :=
  match k with
  | 0 => .addrWrite
  | 1 => .command
  | _ + 2 => .data

end Sys2Proof.Machine
end

