-- ==== Sys2Proof/Machine/Pseudo.lean ====
section
/-! DEFINITION. The pseudo-instructions: host sequences, none of them a command word (R61), and the result each yields
(R85). -/

namespace Sys2Proof.Machine

/-- A pseudo-instruction (R61). -/
inductive Pseudo where
  | wait
  | quickRead
  | byteRead (c : BitVec 8)
  | byteWrite (c : BitVec 8) (v : Word)
  | wordRead (c : BitVec 8)
  | wordWrite (c : BitVec 8) (v : Word)
  | probe (a : BitVec 7)
deriving DecidableEq, Repr, Inhabited

/-- Write a command to CMD, then WAIT. -/
def issue (i : Instr) : List HostAction := [.write 0x000 4 (encode i), .wait]

/-- The expansion of a pseudo-instruction (R61). -/
def expand (p : Pseudo) : List HostAction :=
  match p with
  | .wait => [.wait]
  | .quickRead => issue (.accessR .quick 0 0)
  | .byteRead c => .write 0x100 4 0 :: issue (.accessR .byte 0 c) ++ [.readIfOk 0x100]
  | .byteWrite c v => .write 0x100 4 (v &&& 0xFF) :: issue (.accessW .byte 0 c)
  | .wordRead c => .write 0x100 4 0 :: issue (.accessR .word 0 c) ++ [.readIfOk 0x100]
  | .wordWrite c v => .write 0x100 4 (v &&& 0xFFFF) :: issue (.accessW .word 0 c)
  | .probe a => issue (.setaddr a) ++ issue (.accessR .quick 0 0)

/-- The failure value -1, `sext_32(0xFF)` (R85). -/
def failureResult : Word := (0xFF#8).signExtend 32

/-- 0 where the last STATUS read has ERR = 0, else -1 (R85). -/
def statusResult (reads : List Word) : Word :=
  match reads.getLast? with
  | some w => if statusOk w then 0 else failureResult
  | none => failureResult

/-- The word read after a STATUS with ERR = 0, masked; else -1 (R85). -/
def valueResult (mask : Word) (reads : List Word) : Word :=
  match reads with
  | [st, w] => if statusOk st then w &&& mask else failureResult
  | _ => failureResult

/-- The result `r` of a pseudo-instruction (R85), from the values its own host reads returned, oldest first. That of WAIT,
for which R85's table has no row, is a free value: DESIGN CHOICE (safe; notes/assumptions/26.md). -/
def pseudoResult (p : Pseudo) (reads : List Word) : Word :=
  match p with
  | .wait => Config.waitResult reads
  | .quickRead => statusResult reads
  | .byteRead _ => valueResult 0xFF reads
  | .byteWrite _ _ => statusResult reads
  | .wordRead _ => valueResult 0xFFFF reads
  | .wordWrite _ _ => statusResult reads
  | .probe _ => statusResult reads

end Sys2Proof.Machine
end

