-- ==== Sys2Proof/Machine/Lines.lean ====
section
/-! DEFINITION. The lines of the bus, read off the pin state and the trace: levels (R31), start, repeated start and stop
conditions, data bits and acknowledges (R106), and the least duration of a run of events (R36, R119). No command reads any
of it. -/

namespace Sys2Proof.Machine

/-- The level of the SCL line (R31): the latch from the moment SCL is an output, in OPEN before its completion step too
(R117); none while the block does not drive it (R29). -/
def sclLine (s : State) : Option Level := s.pins.driven .scl

/-- The level of the SDA line (R31, R117), as for SCL; none while SDA is an input, where the level is the peer's. -/
def sdaLine (s : State) : Option Level := s.pins.driven .sda

/-- A bus condition (R106). -/
inductive Condition where
  /-- SDA falls while SCL is high. -/
  | start
  /-- SDA rises while SCL is high. -/
  | stop
deriving DecidableEq, Repr, Inhabited

-- ## The levels of the lines, event by event

/-- The pin state after an event, `draws` being the draws made before it (R13, R30). A successful export hands over a pin
that is no output yet, with the latch it held before (R117), as `pinExport` does. An unexport hands the pin back: from then
on the block drives it no more, and its level is the environment's (R34, R116); an unexport that failed is read in the same
way (notes/assumptions/27.md). -/
def pinsAfter (r : Redirect) (p : Pins) (draws : Nat) (e : PinEvent) : Pins :=
  match e with
  | .level q v => p.setLatch q.line v
  | .dir q d => p.setDir r q.line d
  | .exported q ok => if ok then p.handOver q.line (Config.freeLatch draws) else p
  | .unexported q _ => p.release q.line
  | .sample _ _ => p

/-- The number of draws after an event: an export or unexport takes one, and so does a sample of an input (R31). -/
def drawsAfter (p : Pins) (draws : Nat) (e : PinEvent) : Nat :=
  match e with
  | .level _ _ => draws
  | .dir _ _ => draws
  | .exported _ _ => draws + 1
  | .unexported _ _ => draws + 1
  | .sample q _ => if (p.driven q.line).isSome then draws else draws + 1

/-- The level the next sample sees, of those that lie before the pin leaves the block or its input window ends. -/
def nextSample (es : List PinEvent) : Option Level :=
  match es with
  | [] => none
  | .sample _ b :: _ => some b
  | .exported _ _ :: _ => none
  | .unexported _ _ :: _ => none
  | .dir q d :: rest => if q.line = .sda ∧ d = .out then none else nextSample rest
  | .level _ _ :: rest => nextSample rest

/-- The level sampled in the clock that has just risen, before the next level event. -/
def sampleInClock (es : List PinEvent) : Option Level :=
  match es with
  | [] => none
  | .sample _ b :: _ => some b
  | .exported _ _ :: _ => none
  | .unexported _ _ :: _ => none
  | .dir _ _ :: rest => sampleInClock rest
  | .level _ _ :: _ => none

/-- The SDA level after event `k`, which takes the pins from `p` to `q`: the latch while SDA is an output. While it is an
input it is the peer's level, the one the next sample sees, and a free value where no later event samples it: a command cut
by reset or looked at midway, and a pin that is the environment's (R116, R117). The peer changes it when SDA is released
and while SCL is low, never while the block holds SCL high (95_test_vectors.md section 9). DEDUCED (unsafe;
notes/assumptions/21.md). -/
def sdaLevel (k : Nat) (p q : Pins) (upcoming : List PinEvent) (before : Level) : Level :=
  match q.driven .sda with
  | some v => v
  | none =>
    if q.driven .scl = some true ∧ p.sdaDir = .inp then before
    else (nextSample upcoming).getD (Config.freeSda k)

/-- What an event does on the lines: its number, the levels before and after it, and the level sampled before the next level
event. SCL has none while the block does not drive it, before OPEN and after CLOSE (R31, R116). -/
structure LineStep where
  event : Nat
  sclBefore : Option Level
  sclAfter : Option Level
  sdaBefore : Level
  sdaAfter : Level
  sampled : Option Level
deriving DecidableEq, Repr, Inhabited

/-- The line steps of a list of events, numbered on from `k`, from pins `p`, `draws` draws already made, and the level of
SDA. -/
def lineStepsFrom (r : Redirect) (k : Nat) (p : Pins) (draws : Nat) (sda : Level) (es : List PinEvent) : List LineStep :=
  match es with
  | [] => []
  | e :: rest =>
    let q := pinsAfter r p draws e
    let sda' := sdaLevel k p q rest sda
    { event := k, sclBefore := p.driven .scl, sclAfter := q.driven .scl, sdaBefore := sda, sdaAfter := sda',
      sampled := sampleInClock rest } :: lineStepsFrom r (k + 1) q (drawsAfter p draws e) sda' rest

/-- The line steps of a list of events, numbered from 1. Where the block does not drive SDA at the start, its level there is
free. -/
def lineSteps (r : Redirect) (p : Pins) (draws : Nat) (es : List PinEvent) : List LineStep :=
  lineStepsFrom r 1 p draws ((p.driven .sda).getD (Config.freeSda 0)) es

-- ## Start and stop conditions (R106)

/-- The condition a change of SDA makes, where SCL is high before and after the event (R106). Where the block does not drive
SCL no event of it makes a condition: what happens on the lines then is the environment's (R116). -/
def conditionAt (sclBefore sclAfter : Option Level) (before after : Level) : Option Condition :=
  if sclBefore = some true ∧ sclAfter = some true then
    if before && !after then some .start
    else if !before && after then some .stop
    else none
  else none

/-- The condition of a line step. -/
def LineStep.condition (x : LineStep) : Option Condition := conditionAt x.sclBefore x.sclAfter x.sdaBefore x.sdaAfter

/-- The conditions events make from a pin state with `draws` draws already made, each with its event's number, counted
from 1. -/
def conditions (r : Redirect) (p : Pins) (draws : Nat) (es : List PinEvent) : List (Nat × Condition) :=
  (lineSteps r p draws es).filterMap (fun x => x.condition.map (x.event, ·))

-- ## Data bits, acknowledges and repeated starts (R106)

/-- What the ninth bit after a byte says (R106). -/
inductive Acknowledge where
  /-- The receiver holds SDA low. -/
  | ack
  /-- SDA is high. -/
  | nack
deriving DecidableEq, Repr, Inhabited

/-- The reading of a ninth bit: low is an acknowledge, high a not-acknowledge (R106). -/
def ninthBit (v : Level) : Acknowledge := if v then .nack else .ack

/-- The data bit on the lines: the level of SDA while SCL is high (R106). -/
def dataBit (scl : Option Level) (sda : Level) : Option Level := if scl = some true then some sda else none

/-- What a reader of the lines that follows R106 sees. -/
inductive BusSign where
  /-- A start condition outside a transaction. -/
  | start
  /-- A start condition while a transaction is in progress. -/
  | repeatedStart
  /-- A stop condition. -/
  | stop
  /-- A data bit, one of the eight of a byte. -/
  | bit (v : Level)
  /-- The bit after a byte. -/
  | ninth (a : Acknowledge)
deriving DecidableEq, Repr, Inhabited

/-- Where a reader of the lines stands: whether a transaction is in progress, from a start condition to the next stop
condition, and how many bits of the byte it has seen. -/
structure BusReader where
  inProgress : Bool
  bits : Nat
deriving DecidableEq, Repr, Inhabited

/-- The data bit of the clock that rises at a line step. The transmitter drives it from before the rise; where the block
releases SDA inside the clock and samples it, it is the sampled level: the receiver drives the ninth bit (R69, R106). -/
def LineStep.clockedBit (x : LineStep) : Option Level :=
  if x.sclBefore = some false then dataBit x.sclAfter (x.sampled.getD x.sdaAfter) else none

/-- A reader's next position and the sign it sees (R106). A condition begins a new byte; the bit after eight is the ninth.
DEDUCED (unsafe; notes/assumptions/28.md). -/
def BusReader.next (b : BusReader) (x : LineStep) : BusReader × Option BusSign :=
  match x.condition with
  | some .start => ({ inProgress := true, bits := 0 }, some (if b.inProgress then .repeatedStart else .start))
  | some .stop => ({ inProgress := false, bits := 0 }, some .stop)
  | none =>
    match x.clockedBit with
    | some v =>
      if b.bits = 8 then ({ b with bits := 0 }, some (.ninth (ninthBit v)))
      else ({ b with bits := b.bits + 1 }, some (.bit v))
    | none => (b, none)

/-- The signs a reader sees in a list of line steps, each with its event's number. -/
def signsFrom (b : BusReader) (xs : List LineStep) : List (Nat × BusSign) :=
  match xs with
  | [] => []
  | x :: rest => ((b.next x).2.map (x.event, ·)).toList ++ signsFrom (b.next x).1 rest

/-- A transaction is in progress between commands while SCL is low (R107). -/
def Pins.midTransaction (p : Pins) : Bool := p.driven .scl == some false

/-- The signs a reader sees in events from a pin state between commands with `draws` draws already made. -/
def busSigns (r : Redirect) (p : Pins) (draws : Nat) (es : List PinEvent) : List (Nat × BusSign) :=
  signsFrom { inProgress := p.midTransaction, bits := 0 } (lineSteps r p draws es)

/-- The bits among the signs, with what each ninth bit says. -/
def dataSigns (xs : List (Nat × BusSign)) : List BusSign :=
  xs.filterMap fun x =>
    match x.2 with
    | .start => none
    | .repeatedStart => none
    | .stop => none
    | .bit v => some (.bit v)
    | .ninth a => some (.ninth a)

-- ## The whole bus

/-- The bus is idle: both lines high (R106). A line the block does not drive counts at a free level, so that the bus may or
may not be idle: SDA while it is an input, where R31 makes its level a draw, and both lines where the block owns no pin.
DESIGN CHOICE (free value; unsafe between states with the same number of events; notes/assumptions/29.md). -/
def busIdle (s : State) : Bool :=
  (sclLine s).getD (Config.undrivenScl s.trace.length) && (sdaLine s).getD (Config.undrivenSda s.trace.length)

/-- The SDA levels of a `Send`'s acknowledge window, at its ninth clock, its sample and its return to output (R112). -/
def ackWindowLevels (r : Redirect) (b0 a : Level) : List Level := [b0, a, redirectLatch r b0]

/-- The events a run has added to a trace. -/
def newEvents (s t : State) : List PinEvent := t.trace.drop s.trace.length

/-- The least time a number of pin events takes (R119). -/
def minDuration (events : Nat) : Nat := events * Config.tSettle

end Sys2Proof.Machine
end

