-- ==== Sys2Proof/Safety.lean ====
section
/-! DEFINITION. Safe runs: the end of a run and what is observed there (R105), and the invariants of the machine (R22,
R23, R33, R37, R107). -/

namespace Sys2Proof

open Sys2Proof.Machine

/-- A run of a host program has ended (R105): the host has made its last access, no command runs, and FAULTED is not
set. -/
def Final (s : State) : Prop := s.host = [] ∧ s.busy = false ∧ s.faulted = none

/-- What is observed at the end of a run (R105). -/
structure Observation where
  status : Word
  pincfg : Word
  actpins : Word
  addr : Word
  rxdata : Word
  lines : Word
  data : Memory
  trace : List PinEvent
  scl : Option Level
  sda : Option Level
deriving DecidableEq, Repr

/-- The observation of a state (R105). -/
def observe (s : State) : Observation :=
  { status := statusWord s, pincfg := pincfgWord s, actpins := actpinsWord s, addr := addrWord s
    rxdata := rxdataWord s, lines := linesWord s, data := s.data, trace := s.trace
    scl := sclLine s, sda := sdaLine s }

/-- The pin state between commands: both pins outputs (R33), and SDA high where SCL is (R107). -/
def PinsSettled (p : Pins) : Prop :=
  p.sclDir = .out ∧ p.sdaDir = .out ∧ (p.sclLat = true → p.sdaLat = true)

/-- What holds of the registers and pins whenever no command has changed them halfway. -/
structure Settled (s : State) : Prop where
  /-- STATUS.OPEN = 1 exactly while both active pins are nonzero (R22). -/
  openIff : s.isOpen = true ↔ s.actScl ≠ 0 ∧ s.actSda ≠ 0
  /-- SADDR[0] is 0 (R23). -/
  addrEven : s.saddr.getLsbD 0 = false
  /-- While the bus is open its pins are outputs, and SCL high means the bus is idle (R33, R107). -/
  pinsOpen : s.isOpen = true → PinsSettled s.pins
  /-- While the bus is closed the block owns no pin (R29). -/
  pinsClosed : s.isOpen = false → s.pins = Pins.unowned

/-- SEQ and BUSY agree (R17), and the command in flight, run to its end, leaves the registers and pins settled. -/
def EngineSound (s : State) : Prop :=
  match s.seq with
  | .idle => s.busy = false ∧ Settled s
  | .start => s.busy = true ∧ Settled s
  | .running body tail fin => s.busy = true ∧ Settled (finish body tail fin s)

/-- The invariant of the machine: DATA is in canonical form (R37), and the engine is sound. -/
def Invariant (s : State) : Prop := Memory.wf s.data = true ∧ EngineSound s

end Sys2Proof
end

