-- ==== Sys2Proof/Certificates/Slice0/Obligations.lean ====
section
/-! DEFINITION. The statements for the provers, each a rule of the spec, and the event lists they are written with. -/

namespace Sys2Proof.Claims

open Sys2Proof Sys2Proof.Machine

/-- The pins once a `Stop` has run: both lines high, SDA an output (R68). -/
def stoppedPins (p : Pins) : Pins := { p with sclLat := true, sdaLat := true, sdaDir := .out }

/-- The host lets the engine run on: it is in WAIT, or has made its last access. -/
def HostWaits (s : State) : Prop := s.host = [] ∨ ∃ rest, s.host = .wait :: rest

/-- An instruction is an ACCESS. -/
def IsAccess (i : Instr) : Prop := ∃ size len cmdb, i = .accessW size len cmdb ∨ i = .accessR size len cmdb

end Sys2Proof.Claims

open Sys2Proof Sys2Proof.Machine Sys2Proof.Claims

-- ## Encoding

/-- Decoding the word of any command gives that command, every operand at every value (R54, R55). -/
def Obligations.DecodeEncodeRoundTrip : Prop := ∀ i : Instr, decode (encode i) = .ok i

/-- Encoding a decoded command gives its word back: no bit of a legal word is dropped (R54, R58). -/
def Obligations.EncodeDecodeRoundTrip : Prop := ∀ (w : Word) (i : Instr), decode w = .ok i → encode i = w

/-- A word decodes to a command exactly when it matches that command's row of the opcode map (R57). That no word matches
two rows is the spec's own inference ("pairwise disjoint", 30_encoding.md R57). -/
def Obligations.DecodeFollowsOpcodeMap : Prop :=
  (∀ (w : Word) (i : Instr), decode w = .ok i → ∃ r ∈ opcodeMap, r.admits w = true ∧ r.mnemonic = mnemonicOf i) ∧
  (∀ (w : Word), ∀ r ∈ opcodeMap, r.admits w = true → ∃ i, decode w = .ok i ∧ mnemonicOf i = r.mnemonic) ∧
  (∀ (w : Word), ∀ r₁ ∈ opcodeMap, ∀ r₂ ∈ opcodeMap, r₁.admits w = true → r₂.admits w = true → r₁ = r₂)

/-- Which words are illegal (R58): OP 0x0 and 0xA to 0xF, and every word of another OP that matches no row of the opcode
map. -/
def Obligations.IllegalWordsAreTheReservedOnes : Prop :=
  ∀ w : Word,
    (decode w = .error .reservedOp ↔ (opField w = 0 ∨ 0xA ≤ (opField w).toNat)) ∧
    (decode w = .error .reservedBits ↔
      (1 ≤ (opField w).toNat ∧ (opField w).toNat ≤ 9 ∧ ∀ r ∈ opcodeMap, r.admits w = false))

/-- The worked encodings of R62, which the spec derives from R54 and R57. -/
def Obligations.WorkedEncodings : Prop :=
  decode 0x10000000 = .ok .start ∧ decode 0x10000001 = .ok .restart ∧ decode 0x300000A0 = .ok (.send 0xA0) ∧
  decode 0x60000050 = .ok (.setaddr 0x50) ∧ decode 0x71000010 = .ok (.accessW .byte 0 0x10) ∧
  decode 0x7A000010 = .ok (.accessR .word 0 0x10) ∧ decode 0x78000000 = .ok (.accessR .quick 0 0) ∧
  decode 0x73030020 = .ok (.accessW .block 3 0x20) ∧ decode 0x7BFF0000 = .ok (.accessR .block 255 0) ∧
  decode 0x10000002 = .error .reservedBits ∧ decode 0x7C000000 = .error .reservedBits ∧
  decode 0x71000110 = .error .reservedBits ∧ decode 0x71FF0010 = .ok (.accessW .byte 0xFF 0x10)

/-- The assembler gives every form of line its word, with LEN = 0 for QUICK, BYTE and WORD, and an operand out of range is
an assembly error (R60). -/
def Obligations.AssemblerFollowsSyntax : Prop :=
  (assemble .start = some 0x10000000#32 ∧ assemble .restart = some 0x10000001#32 ∧ assemble .stop = some 0x20000000#32 ∧
    assemble .recv = some 0x40000000#32 ∧ assemble .ack = some 0x50000000#32 ∧
    assemble .openBus = some 0x80000000#32 ∧ assemble .closeBus = some 0x90000000#32) ∧
  (∀ b, assemble (.send b) = if b ≤ 255 then some (0x30000000#32 ||| BitVec.ofNat 32 b) else none) ∧
  (∀ a, assemble (.setaddr a) = if a ≤ 127 then some (0x60000000#32 ||| BitVec.ofNat 32 a) else none) ∧
  (∀ c n, ∀ e ∈ [(SizeClass.quick, 0#32), (.byte, 1#32), (.word, 2#32)],
    assemble (.accessW c e.1 n) =
      (if c ≤ 255 ∧ n = 0 then some (0x70000000#32 ||| (e.2 <<< 24) ||| BitVec.ofNat 32 c) else none) ∧
    assemble (.accessR c e.1 n) =
      (if c ≤ 255 ∧ n = 0 then some (0x78000000#32 ||| (e.2 <<< 24) ||| BitVec.ofNat 32 c) else none)) ∧
  (∀ c n, assemble (.accessW c .block n) =
    if c ≤ 255 ∧ n ≤ 255 then some (0x73000000#32 ||| (BitVec.ofNat 32 n <<< 16) ||| BitVec.ofNat 32 c) else none) ∧
  (∀ c n, assemble (.accessR c .block n) =
    if c ≤ 255 ∧ n ≤ 255 then some (0x7B000000#32 ||| (BitVec.ofNat 32 n <<< 16) ||| BitVec.ofNat 32 c) else none)

-- ## The step and the engine

/-- When the word in CUR decodes to a command, a step in which the host waits is `exec` of it, nothing added (R17). The
command is placed by a host write to CMD (the model's fetch, notes/assumptions/1.md); that one step runs all of it is the
model's choice (notes/assumptions/2.md, 3.md). -/
def Obligations.StepRunsDecodedCommand : Prop :=
  ∀ (s : State) (i : Instr), s.faulted = none → s.busy = true → s.seq = .start → decode s.cur = .ok i → HostWaits s →
    step s = exec i s

/-- An illegal word is refused with ERR = 6: no pin event, no other state changes (R58). The step in which the host waits
is the model's choice (notes/assumptions/2.md). -/
def Obligations.IllegalWordIsRefused : Prop :=
  ∀ (s : State) (e : DecodeError), s.faulted = none → s.busy = true → s.seq = .start → decode s.cur = .error e →
    HostWaits s →
    step s = .next { s with err := .illegalCmd, busy := false, seq := .idle, loc := Locals.init }

/-- A tick of the host is one engine step (R8, R17; the interleaving is the model's, notes/assumptions/2.md). -/
def Obligations.TickIsOneEngineStep : Prop :=
  ∀ (s : State) (rest : List HostAction), s.faulted = none → s.host = .tick :: rest →
    step s = .next (engineStep { s with host := rest })

/-- One engine step is one pin primitive, and the step that ends the command is the completion step, which issues no
event (R17). A step that leaves BUSY = 1 leaves OPEN, NACK, ERR, NPHASE, XCOUNT, RXDATA, ADDR, ACTPINS, PINCFG and CUR
as they were: every STATUS field keeps the value of the previous completion until the completion step (R17, R27). LINES
and DATA are not among them. -/
def Obligations.EngineStepIssuesOneEvent : Prop :=
  ∀ s : State, s.busy = true → s.seq ≠ .idle →
    ((engineStep s).busy = true →
      (∃ e, (engineStep s).trace = s.trace ++ [e]) ∧
      (engineStep s).isOpen = s.isOpen ∧ (engineStep s).nack = s.nack ∧ (engineStep s).err = s.err ∧
      (engineStep s).nphase = s.nphase ∧ (engineStep s).xcount = s.xcount ∧ (engineStep s).rxbyte = s.rxbyte ∧
      (engineStep s).saddr = s.saddr ∧ (engineStep s).actScl = s.actScl ∧ (engineStep s).actSda = s.actSda ∧
      (engineStep s).cfgScl = s.cfgScl ∧ (engineStep s).cfgSda = s.cfgSda ∧ (engineStep s).cur = s.cur) ∧
    ((engineStep s).busy = false → (engineStep s).trace = s.trace)

/-- The engine's single steps, with no host access between them, reach exactly what `exec` gives for the whole command,
in at most 7741 pin events and the completion step, BUSY staying 1 until then (R17). The bound is the spec's own inference
(60_exceptions.md R101). -/
def Obligations.EngineStepsReachExec : Prop :=
  ∀ (s : State) (i : Instr), s.busy = true → s.seq = .start → decode s.cur = .ok i →
    ∃ n, 1 ≤ n ∧ n ≤ 7742 ∧ exec i s = .next (engineSteps n s) ∧ ∀ m, m < n → (engineSteps m s).busy = true

-- ## Engine commands

/-- START with the pins configured (R66): its two events, ERR = 0, both latches low, nothing else changed. -/
def Obligations.StartDrivesDataThenClockLow : Prop :=
  ∀ s : State, s.actScl ≠ 0 → s.actSda ≠ 0 →
    exec .start s = .next { s with
      pins := { s.pins with sclLat := false, sdaLat := false }
      trace := s.trace ++ startEvents (activeWires s)
      err := .none, busy := false, seq := .idle, loc := Locals.init }

/-- RESTART with the pins configured (R67). -/
def Obligations.RestartReleasesThenStarts : Prop :=
  ∀ s : State, s.actScl ≠ 0 → s.actSda ≠ 0 →
    exec .restart s = .next { s with
      pins := { s.pins with sclLat := false, sdaLat := false }
      trace := s.trace ++ restartEvents (activeWires s)
      err := .none, busy := false, seq := .idle, loc := Locals.init }

/-- STOP with the pins configured (R68). -/
def Obligations.StopReleasesTheBus : Prop :=
  ∀ s : State, s.actScl ≠ 0 → s.actSda ≠ 0 →
    exec .stop s = .next { s with
      pins := { s.pins with sclLat := true, sdaLat := true }
      trace := s.trace ++ stopEvents (activeWires s)
      err := .none, busy := false, seq := .idle, loc := Locals.init }

/-- ACK (R71): its word, its four events with ERR = 0, and its refusal with the pins unconfigured. -/
def Obligations.AckPulsesTheNinthClock : Prop :=
  encode .ack = 0x50000000#32 ∧
  ∀ s : State,
    (s.actScl ≠ 0 → s.actSda ≠ 0 →
      exec .ack s = .next { s with
        pins := { s.pins with sclLat := false, sdaLat := true }
        trace := s.trace ++ ackEvents (activeWires s)
        err := .none, busy := false, seq := .idle, loc := Locals.init }) ∧
    ((s.actScl = 0 ∨ s.actSda = 0) →
      exec .ack s = .next { s with err := .unconfigured, busy := false, seq := .idle, loc := Locals.init })

/-- SEND (R69): its word; with the pins configured its 29 events, NACK the sampled bit whichever it is, ERR = 0, and the
SDA latch bit 0 or low as SDA_OUT_ON_REDIRECT says (R30); and its refusal with the pins unconfigured. -/
def Obligations.SendShiftsByteAndSamplesAck : Prop :=
  ∀ (s : State) (b : BitVec 8),
    encode (.send b) = 0x30000000#32 ||| b.setWidth 32 ∧
    (sendEvents (activeWires s) b s.env.next.1).length = 29 ∧
    (s.actScl ≠ 0 → s.actSda ≠ 0 →
      exec (.send b) s = .next { s with
        pins := { s.pins with
          sclLat := false, sdaDir := .out, sdaLat := redirectLatch Config.sdaOutOnRedirect (b.getLsbD 0) }
        trace := s.trace ++ sendEvents (activeWires s) b s.env.next.1
        env := s.env.next.2
        nack := s.env.next.1
        err := .none, busy := false, seq := .idle, loc := Locals.init }) ∧
    ((s.actScl = 0 ∨ s.actSda = 0) →
      exec (.send b) s = .next { s with err := .unconfigured, busy := false, seq := .idle, loc := Locals.init })

/-- RECV (R70): its word; with the pins configured its 26 events, RXDATA the byte of the eight sampled bits, most
significant first, ERR = 0, NACK unchanged; and its refusal with the pins unconfigured. -/
def Obligations.RecvAssemblesSampledByte : Prop :=
  encode .recv = 0x40000000#32 ∧
  ∀ s : State,
    (recvEvents (activeWires s) (envTake 8 s.env).1).length = 26 ∧
    (s.actScl ≠ 0 → s.actSda ≠ 0 →
      exec .recv s = .next { s with
        pins := { s.pins with
          sclLat := false, sdaDir := .out, sdaLat := redirectLatch Config.sdaOutOnRedirect s.pins.sdaLat }
        trace := s.trace ++ recvEvents (activeWires s) (envTake 8 s.env).1
        env := (envTake 8 s.env).2
        rxbyte := byteOfWire (envTake 8 s.env).1
        err := .none, busy := false, seq := .idle, loc := Locals.init }) ∧
    ((s.actScl = 0 ∨ s.actSda = 0) →
      exec .recv s = .next { s with err := .unconfigured, busy := false, seq := .idle, loc := Locals.init })

/-- The configured-pins guard (R64): START and RESTART are silent no-ops with ERR = 0; STOP, SEND, RECV and ACK are
refused with ERR = 5; none issues a pin event or changes anything else. -/
def Obligations.UnconfiguredPinsGuard : Prop :=
  ∀ (s : State) (b : BitVec 8), (s.actScl = 0 ∨ s.actSda = 0) →
    (∀ i ∈ [Instr.start, Instr.restart],
      exec i s = .next { s with err := .none, busy := false, seq := .idle, loc := Locals.init }) ∧
    (∀ i ∈ [Instr.stop, Instr.send b, Instr.recv, Instr.ack],
      exec i s = .next { s with err := .unconfigured, busy := false, seq := .idle, loc := Locals.init })

-- ## OPEN, CLOSE and SETADDR

/-- OPEN, all its outcomes in the order of its checks (R73). Its word; PRECONDITION when a bus is open; DESCRIPTOR for a
zero or repeated pin number; with both exports succeeding, its six events and the bus open and idle; RESOURCE at the first
export that fails, with no rollback, ACTPINS, OPEN and ADDR kept. (The pin state after a failed export is left open: the
block then owns no pin.) -/
def Obligations.OpenFollowsItsChecks : Prop :=
  encode .openBus = 0x80000000#32 ∧
  ∀ s : State,
    (s.isOpen = true →
      exec .openBus s = .next { s with err := .precondition, busy := false, seq := .idle, loc := Locals.init }) ∧
    (s.isOpen = false → (s.cfgScl = 0 ∨ s.cfgSda = 0 ∨ s.cfgScl = s.cfgSda) →
      exec .openBus s = .next { s with err := .descriptor, busy := false, seq := .idle, loc := Locals.init }) ∧
    (s.isOpen = false → s.cfgScl ≠ 0 → s.cfgSda ≠ 0 → s.cfgScl ≠ s.cfgSda →
      ((envTake 2 s.env).1 = [true, true] →
        exec .openBus s = .next { s with
          pins := { sclLat := true, sclDir := .out, sdaLat := true, sdaDir := .out }
          trace := s.trace ++
            [.exported ⟨.scl, s.cfgScl⟩ true, .exported ⟨.sda, s.cfgSda⟩ true, .dir ⟨.scl, s.cfgScl⟩ .out,
              .dir ⟨.sda, s.cfgSda⟩ .out, .level ⟨.scl, s.cfgScl⟩ true, .level ⟨.sda, s.cfgSda⟩ true]
          env := (envTake 2 s.env).2
          actScl := s.cfgScl, actSda := s.cfgSda, isOpen := true
          err := .none, busy := false, seq := .idle, loc := Locals.init }) ∧
      ((envTake 1 s.env).1 = [false] → ∃ p,
        exec .openBus s = .next { s with
          pins := p
          trace := s.trace ++ [.exported ⟨.scl, s.cfgScl⟩ false]
          env := (envTake 1 s.env).2
          err := .resource, busy := false, seq := .idle, loc := Locals.init }) ∧
      ((envTake 2 s.env).1 = [true, false] → ∃ p,
        exec .openBus s = .next { s with
          pins := p
          trace := s.trace ++ [.exported ⟨.scl, s.cfgScl⟩ true, .exported ⟨.sda, s.cfgSda⟩ false]
          env := (envTake 2 s.env).2
          err := .resource, busy := false, seq := .idle, loc := Locals.init }))

/-- CLOSE (R74). With a bus open both unexports are tried whatever their results, ADDR, ACTPINS and OPEN are cleared, and
ERR = 4 exactly when one failed; with none open there is no pin event, ADDR is cleared and ERR = 0. LINES then reads 0.
(The pin state after CLOSE is left open: the block owns no pin.) -/
def Obligations.CloseReleasesAndClears : Prop :=
  encode .closeBus = 0x90000000#32 ∧
  ∀ s : State,
    (∀ r₁ r₂ : Bool, s.isOpen = true → (envTake 2 s.env).1 = [r₁, r₂] → ∃ p t,
      exec .closeBus s = .next t ∧ linesWord t = 0 ∧
      t = { s with
        pins := p
        trace := s.trace ++ [.unexported ⟨.scl, s.actScl⟩ r₁, .unexported ⟨.sda, s.actSda⟩ r₂]
        env := (envTake 2 s.env).2
        saddr := 0, actScl := 0, actSda := 0, isOpen := false
        err := if r₁ = true ∧ r₂ = true then .none else .resource
        busy := false, seq := .idle, loc := Locals.init }) ∧
    (s.isOpen = false → ∃ p t,
      exec .closeBus s = .next t ∧ linesWord t = 0 ∧
      t = { s with
        pins := p, saddr := 0, actScl := 0, actSda := 0
        err := .none, busy := false, seq := .idle, loc := Locals.init })

/-- SETADDR (R75): its word; with a bus open SADDR is the 7-bit address shifted left by one; with none it is refused with
ERR = 2. Nothing else changes, and no pin event is issued. -/
def Obligations.SetAddrStoresShiftedAddress : Prop :=
  ∀ (s : State) (a7 : BitVec 7),
    encode (.setaddr a7) = 0x60000000#32 ||| a7.setWidth 32 ∧
    (s.isOpen = true →
      exec (.setaddr a7) s = .next { s with
        saddr := a7.setWidth 8 <<< 1, err := .none, busy := false, seq := .idle, loc := Locals.init }) ∧
    (s.isOpen = false →
      exec (.setaddr a7) s = .next { s with err := .precondition, busy := false, seq := .idle, loc := Locals.init })

-- ## ACCESS

/-- The precondition of both ACCESS commands (R78): with no bus open or no slave addressed, ERR = 2, no pin event and
nothing else changed. -/
def Obligations.AccessPrecondition : Prop :=
  ∀ (s : State) (i : Instr), IsAccess i → (s.isOpen = false ∨ s.saddr = 0) →
    exec i s = .next { s with err := .precondition, busy := false, seq := .idle, loc := Locals.init }

/-- SIZE and the payload length (R56): the four codes and their lengths; LEN is read only for BLOCK. That
BLOCK with LEN = 0 behaves as QUICK is the spec's own inference (30_encoding.md R56, from R79). -/
def Obligations.SizeSelectsThePayloadLength : Prop :=
  (sizeField .quick = 0#2 ∧ sizeField .byte = 1#2 ∧ sizeField .word = 2#2 ∧ sizeField .block = 3#2) ∧
  (∀ l : BitVec 8, payloadLen .quick l = 0 ∧ payloadLen .byte l = 1 ∧ payloadLen .word l = 2 ∧
    payloadLen .block l = l.toNat) ∧
  (∀ (s : State) (size : SizeClass) (l₁ l₂ c : BitVec 8), size ≠ .block →
    exec (.accessW size l₁ c) s = exec (.accessW size l₂ c) s ∧
    exec (.accessR size l₁ c) s = exec (.accessR size l₂ c) s) ∧
  (∀ (s : State) (l c : BitVec 8),
    exec (.accessW .block 0 c) s = exec (.accessW .quick l c) s ∧
    exec (.accessR .block 0 c) s = exec (.accessR .quick l c) s)

/-- ACCESS.W whose payload includes an UNSET byte is fault UNSET_DATA before any pin event (R82, R88). That BUSY returns
to 0 is read from vector ACC-6 (notes/assumptions/7.md). -/
def Obligations.UnsetPayloadIsAFault : Prop :=
  ∀ (s : State) (size : SizeClass) (len cmdb : BitVec 8) (i : Nat), s.isOpen = true → s.saddr ≠ 0 →
    i < payloadLen size len → memRead s.data i = none →
    exec (.accessW size len cmdb) s = .next { s with
      faulted := some (s.faulted.getD .unsetData), busy := false, seq := .idle, loc := Locals.init }

/-- ACCESS.W with every byte acknowledged (R82): start, address, and for a nonempty payload the command byte and
`DATA[0..len-1]` in order, stop; ERR = 0, NPHASE = 0, XCOUNT = len, NACK = 0; RXDATA and DATA unchanged. -/
def Obligations.AccessWriteSucceeds : Prop :=
  ∀ (s : State) (size : SizeClass) (len cmdb : BitVec 8) (bytes : List Byte), s.isOpen = true → s.saddr ≠ 0 →
    bytes.length = payloadLen size len → (∀ i, (h : i < bytes.length) → memRead s.data i = some bytes[i]) →
    (envTake (writeWire s cmdb bytes).length s.env).1 = List.replicate (writeWire s cmdb bytes).length false →
    exec (.accessW size len cmdb) s = .next { s with
      pins := stoppedPins s.pins
      trace := s.trace ++ (startEvents (activeWires s) ++
        (writeWire s cmdb bytes).flatMap (fun b => sendEvents (activeWires s) b false) ++ stopEvents (activeWires s))
      env := (envTake (writeWire s cmdb bytes).length s.env).2
      nack := false, nphase := .none, xcount := BitVec.ofNat 8 (payloadLen size len)
      err := .none, busy := false, seq := .idle, loc := Locals.init }

/-- ACCESS.W with its first nack at the `k`-th byte it sends (R81, R82): that byte is the last one sent, then `Stop`;
ERR = 1, NPHASE the byte's phase, XCOUNT the payload bytes acknowledged before it, NACK = 1. -/
def Obligations.AccessWriteNacked : Prop :=
  ∀ (s : State) (size : SizeClass) (len cmdb : BitVec 8) (bytes : List Byte) (k : Nat), s.isOpen = true →
    s.saddr ≠ 0 →
    bytes.length = payloadLen size len → (∀ i, (h : i < bytes.length) → memRead s.data i = some bytes[i]) →
    (h : k < (writeWire s cmdb bytes).length) →
    (envTake (k + 1) s.env).1 = List.replicate k false ++ [true] →
    exec (.accessW size len cmdb) s = .next { s with
      pins := stoppedPins s.pins
      trace := s.trace ++ (startEvents (activeWires s) ++
        ((writeWire s cmdb bytes).take k).flatMap (fun b => sendEvents (activeWires s) b false) ++
        sendEvents (activeWires s) (writeWire s cmdb bytes)[k] true ++ stopEvents (activeWires s))
      env := (envTake (k + 1) s.env).2
      nack := true, nphase := writePhase k, xcount := BitVec.ofNat 8 (k - 2)
      err := .nack, busy := false, seq := .idle, loc := Locals.init }

/-- ACCESS.R with every address and command byte acknowledged (R83): start, address(write), the command byte when
`len > 0`, repeated start, address(read), `len` bytes with an acknowledge pulse after every one but the last, stop; the
bytes received are in `DATA[0..len-1]`, RXDATA is the last of them, ERR = 0, NPHASE = 0, XCOUNT = len, NACK = 0. -/
def Obligations.AccessReadSucceeds : Prop :=
  ∀ (s : State) (size : SizeClass) (len cmdb : BitVec 8) (bytes : List Byte) (acks : List Bool), s.isOpen = true →
    s.saddr ≠ 0 →
    bytes.length = payloadLen size len → acks = (if bytes = [] then [false, false] else [false, false, false]) →
    (envTake (acks.length + 8 * bytes.length) s.env).1 = acks ++ bytes.flatMap wireOrder →
    exec (.accessR size len cmdb) s = .next { s with
      pins := stoppedPins s.pins
      trace := s.trace ++ (startEvents (activeWires s) ++ sendEvents (activeWires s) (s.saddr ||| 0) false ++
        (if bytes = [] then [] else sendEvents (activeWires s) cmdb false) ++ restartEvents (activeWires s) ++
        sendEvents (activeWires s) (s.saddr ||| 1) false ++ readEvents (activeWires s) bytes ++
        stopEvents (activeWires s))
      env := (envTake (acks.length + 8 * bytes.length) s.env).2
      data := storeBytes s.data 0 bytes
      rxbyte := bytes.getLast?.getD s.rxbyte
      nack := false, nphase := .none, xcount := BitVec.ofNat 8 (payloadLen size len)
      err := .none, busy := false, seq := .idle, loc := Locals.init }

/-- ACCESS.R with a nack (R81, R83): on the address (write direction), on the command byte when `len > 0`, or on the
address (read direction). `Stop` follows at once; ERR = 1, NPHASE 1, 2 or 4, XCOUNT = 0, NACK = 1; DATA and RXDATA are
unchanged. -/
def Obligations.AccessReadNacked : Prop :=
  ∀ (s : State) (size : SizeClass) (len cmdb : BitVec 8), s.isOpen = true → s.saddr ≠ 0 →
    ((envTake 1 s.env).1 = [true] →
      exec (.accessR size len cmdb) s = .next { s with
        pins := stoppedPins s.pins
        trace := s.trace ++ (startEvents (activeWires s) ++ sendEvents (activeWires s) (s.saddr ||| 0) true ++
          stopEvents (activeWires s))
        env := (envTake 1 s.env).2
        nack := true, nphase := .addrWrite, xcount := 0
        err := .nack, busy := false, seq := .idle, loc := Locals.init }) ∧
    (payloadLen size len ≠ 0 → (envTake 2 s.env).1 = [false, true] →
      exec (.accessR size len cmdb) s = .next { s with
        pins := stoppedPins s.pins
        trace := s.trace ++ (startEvents (activeWires s) ++ sendEvents (activeWires s) (s.saddr ||| 0) false ++
          sendEvents (activeWires s) cmdb true ++ stopEvents (activeWires s))
        env := (envTake 2 s.env).2
        nack := true, nphase := .command, xcount := 0
        err := .nack, busy := false, seq := .idle, loc := Locals.init }) ∧
    (payloadLen size len ≠ 0 → (envTake 3 s.env).1 = [false, false, true] →
      exec (.accessR size len cmdb) s = .next { s with
        pins := stoppedPins s.pins
        trace := s.trace ++ (startEvents (activeWires s) ++ sendEvents (activeWires s) (s.saddr ||| 0) false ++
          sendEvents (activeWires s) cmdb false ++ restartEvents (activeWires s) ++
          sendEvents (activeWires s) (s.saddr ||| 1) true ++ stopEvents (activeWires s))
        env := (envTake 3 s.env).2
        nack := true, nphase := .addrRead, xcount := 0
        err := .nack, busy := false, seq := .idle, loc := Locals.init }) ∧
    (payloadLen size len = 0 → (envTake 2 s.env).1 = [false, true] →
      exec (.accessR size len cmdb) s = .next { s with
        pins := stoppedPins s.pins
        trace := s.trace ++ (startEvents (activeWires s) ++ sendEvents (activeWires s) (s.saddr ||| 0) false ++
          restartEvents (activeWires s) ++ sendEvents (activeWires s) (s.saddr ||| 1) true ++
          stopEvents (activeWires s))
        env := (envTake 2 s.env).2
        nack := true, nphase := .addrRead, xcount := 0
        err := .nack, busy := false, seq := .idle, loc := Locals.init })

/-- Every ACCESS that passes its checks, whatever the peer answers, ends with the `Stop` procedure, both latches high and
BUSY = 0 (R81). -/
def Obligations.EveryAccessEndsWithStop : Prop :=
  ∀ (s t : State) (i : Instr), IsAccess i → s.isOpen = true → s.saddr ≠ 0 →
    (∀ size len cmdb, i = .accessW size len cmdb → ∀ j, j < payloadLen size len → memRead s.data j ≠ none) →
    exec i s = .next t →
    t.busy = false ∧ t.pins.sclLat = true ∧ t.pins.sdaLat = true ∧
    ∃ es, t.trace = s.trace ++ (startEvents (activeWires s) ++ es ++ stopEvents (activeWires s))

/-- After CLOSE every ACCESS fails its precondition check, whatever the state before (R86, R74, R78). -/
def Obligations.CloseThenAccessFails : Prop :=
  ∀ (s t : State) (i : Instr), IsAccess i → exec .closeBus s = .next t →
    exec i t = .next { t with err := .precondition, busy := false, seq := .idle, loc := Locals.init }

-- ## All commands

/-- Every command completes, with BUSY = 0, after at most 7741 pin events: the spec's own inference (60_exceptions.md
R101). -/
def Obligations.EveryCommandCompletesInBound : Prop :=
  ∀ (s : State) (i : Instr), ∃ t es, exec i s = .next t ∧ t.busy = false ∧ t.seq = .idle ∧ t.trace = s.trace ++ es ∧
    es.length ≤ 7741

/-- Which command writes which register (R21 to R24, R28, R73 to R75): NPHASE and XCOUNT only ACCESS; NACK only SEND and
ACCESS; RXDATA only RECV and ACCESS.R; ADDR only SETADDR and CLOSE; OPEN and ACTPINS only OPEN and CLOSE; PINCFG, CUR
and what the host has to do and has read no command. That NPHASE keeps its value follows R28 against R20
(notes/assumptions/12.md). -/
def Obligations.CommandsWriteOnlyTheirRegisters : Prop :=
  ∀ (s t : State) (i : Instr), exec i s = .next t →
    (¬ IsAccess i → t.nphase = s.nphase ∧ t.xcount = s.xcount) ∧
    (¬ IsAccess i → (∀ b, i ≠ .send b) → t.nack = s.nack) ∧
    (i ≠ .recv → (∀ size len c, i ≠ .accessR size len c) → t.rxbyte = s.rxbyte) ∧
    (i ≠ .closeBus → (∀ a, i ≠ .setaddr a) → t.saddr = s.saddr) ∧
    (i ≠ .openBus → i ≠ .closeBus → t.isOpen = s.isOpen ∧ t.actScl = s.actScl ∧ t.actSda = s.actSda) ∧
    t.cfgScl = s.cfgScl ∧ t.cfgSda = s.cfgSda ∧ t.cur = s.cur ∧ t.host = s.host ∧ t.reads = s.reads ∧
    t.readDraws = s.readDraws

/-- Only ACCESS.R writes DATA, and only `DATA[0..len-1]`; a failed ACCESS.R writes none (R37, R83). -/
def Obligations.OnlyAccessReadWritesData : Prop :=
  ∀ (s t : State) (i : Instr), exec i s = .next t →
    ((∀ size len c, i ≠ .accessR size len c) → t.data = s.data) ∧
    (∀ size len c, i = .accessR size len c →
      (∀ a, payloadLen size len ≤ a → memRead t.data a = memRead s.data a) ∧ (t.err ≠ .none → t.data = s.data))

/-- No command reads a flag (R28): started with any other NACK, ERR and NPHASE it does the same pin events, takes the same
draws, and leaves the same DATA, pins and registers. It ends with the same ERR, where it met no model fault; a SEND with
the pins configured ends with the same NACK, and an ACCESS that passes its checks with the same NACK and NPHASE. -/
def Obligations.FlagsDoNotAffectCommands : Prop :=
  ∀ (s t : State) (i : Instr) (n : Level) (e : Err) (p : Phase), exec i s = .next t →
    ∃ u, exec i { s with nack := n, err := e, nphase := p } = .next u ∧ u.trace = t.trace ∧ u.env = t.env ∧
      u.data = t.data ∧ u.pins = t.pins ∧ u.saddr = t.saddr ∧ u.rxbyte = t.rxbyte ∧ u.xcount = t.xcount ∧
      u.isOpen = t.isOpen ∧ u.actScl = t.actScl ∧ u.actSda = t.actSda ∧ u.faulted = t.faulted ∧
      (t.faulted = none → u.err = t.err) ∧
      (∀ b, i = .send b → s.actScl ≠ 0 → s.actSda ≠ 0 → u.nack = t.nack) ∧
      (IsAccess i → s.isOpen = true → s.saddr ≠ 0 → t.faulted = none → u.nack = t.nack ∧ u.nphase = t.nphase)

/-- No command but CLOSE changes the direction of SCL while a bus is open, at any engine step (R29). -/
def Obligations.ClockPinStaysAnOutput : Prop :=
  ∀ (s : State) (i : Instr) (n : Nat), s.busy = true → s.seq = .start → decode s.cur = .ok i → i ≠ .closeBus →
    s.isOpen = true → s.pins.sclDir = .out → (engineSteps n s).pins.sclDir = .out

/-- Nothing removes or reorders an event of TRACE (R35). That a reset keeps them is the model's form of reset
(notes/assumptions/18.md). -/
def Obligations.TraceOnlyGrows : Prop :=
  ∀ s t : State, step s = .next t → ∃ es, t.trace = s.trace ++ es

-- ## The register window

/-- A host write to CMD while BUSY = 0 starts the command (R17): CUR, BUSY and SEQ, nothing else. -/
def Obligations.CommandWriteStarts : Prop :=
  ∀ (s : State) (w : Word) (rest : List HostAction), s.faulted = none → s.busy = false →
    s.host = .write 0 4 w :: rest →
    step s = .next { s with cur := w, busy := true, seq := .start, host := rest }

/-- A host that writes any command and WAITs (R17, R47, R61): the write starts the command, the wait runs all of it, and
where it met no model fault the poll that ends the wait returns the STATUS the command left. The turns are the model's
choice (notes/assumptions/2.md). -/
def Obligations.WaitedCommandShowsItsStatus : Prop :=
  ∀ (s : State) (i : Instr) (rest : List HostAction), s.faulted = none → s.busy = false →
    s.host = .write 0 4 (encode i) :: .wait :: rest →
    ∃ t u, step s = .next t ∧ step t = .next u ∧ exec i t = .next u ∧ u.busy = false ∧
      (u.faulted = none → step u = .next { u with reads := s.reads ++ [statusWord u], host := rest })

/-- A host write while BUSY = 1 is fault BUSY_WRITE: the command in flight is not altered and the value is not stored
(R88, R89). That it comes before BAD_WIDTH and RESERVED_OFFSET, so that any width and offset is meant, is the model's
reading of R90 (notes/assumptions/14.md). -/
def Obligations.BusyWriteIsAFault : Prop :=
  ∀ (s : State) (off bytes : Nat) (v : Word) (rest : List HostAction), s.faulted = none → s.busy = true →
    off < 0x200 → s.host = .write off bytes v :: rest →
    step s = .next { s with faulted := some .busyWrite, host := rest }

/-- An access of another width or at a misaligned offset is a fault (R43), and so is an aligned 32-bit access to 0x01C to
0x0FC (R42); nothing is stored or read. The fault is BAD_WIDTH or RESERVED_OFFSET, or BUSY_WRITE where that comes first
(R88, R89). Their order is the model's reading of R90 (notes/assumptions/14.md). -/
def Obligations.UndefinedAccessIsAFault : Prop :=
  ∀ (s : State) (off bytes : Nat) (v : Word) (rest : List HostAction), s.faulted = none → off < 0x200 →
    ((bytes ≠ 4 ∨ off % 4 ≠ 0) →
      (s.host = .read off bytes :: rest → step s = .next { s with faulted := some .badWidth, host := rest }) ∧
      (s.host = .write off bytes v :: rest →
        step s = .next { s with faulted := some (if s.busy then .busyWrite else .badWidth), host := rest })) ∧
    (bytes = 4 → off % 4 = 0 → 0x1C ≤ off → off ≤ 0xFC →
      (s.host = .read off bytes :: rest → step s = .next { s with faulted := some .reservedOffset, host := rest }) ∧
      (s.host = .write off bytes v :: rest →
        step s = .next { s with faulted := some (if s.busy then .busyWrite else .reservedOffset), host := rest }))

/-- A host write to a read-only register has no effect while BUSY = 0 (R26). -/
def Obligations.ReadOnlyRegistersIgnoreWrites : Prop :=
  ∀ (s : State) (off : Nat) (v : Word) (rest : List HostAction), s.faulted = none → s.busy = false →
    off ∈ [0x004, 0x00C, 0x010, 0x014, 0x018] → s.host = .write off 4 v :: rest →
    step s = .next { s with host := rest }

/-- PINCFG accepts every 32-bit value and reads it back (R21). -/
def Obligations.PincfgReadsBack : Prop :=
  ∀ (s : State) (v : Word) (rest : List HostAction), s.faulted = none → s.busy = false →
    s.host = .write 0x008 4 v :: .read 0x008 4 :: rest →
    ∃ t, step s = .next t ∧ step t = .next { s with
      cfgScl := v.extractLsb' 0 16, cfgSda := v.extractLsb' 16 16, reads := s.reads ++ [v], host := rest }

/-- DATA words are little-endian (R44): a write of word `k` sets its four bytes and no other; a read returns the word of
its four bytes, and faults where one of them is UNSET. -/
def Obligations.DataWordIsLittleEndian : Prop :=
  ∀ (s : State) (k : Nat) (v : Word) (rest : List HostAction), s.faulted = none → s.busy = false → k < 64 →
    (s.host = .write (0x100 + 4 * k) 4 v :: rest →
      ∃ d, step s = .next { s with data := d, host := rest } ∧
        (∀ j, j < 4 → memRead d (4 * k + j) = some (v.extractLsb' (8 * j) 8)) ∧
        (∀ a, (a < 4 * k ∨ 4 * k + 4 ≤ a) → memRead d a = memRead s.data a)) ∧
    (s.host = .read (0x100 + 4 * k) 4 :: rest →
      (∀ b : Fin 4 → Byte, (∀ j : Fin 4, memRead s.data (4 * k + j) = some (b j)) →
        step s = .next { s with reads := s.reads ++ [b 3 ++ b 2 ++ b 1 ++ b 0], host := rest }) ∧
      (∀ j, j < 4 → memRead s.data (4 * k + j) = none →
        step s = .next { s with faulted := some .unsetRead, host := rest }))

/-- Reads while BUSY = 1 (R27, R46): STATUS and PINCFG return their values; CMD, ACTPINS, ADDR, RXDATA, LINES and every DATA
word return a free value. That CMD is among them follows R46 and D13 against R19 (notes/assumptions/13.md). -/
def Obligations.ReadsWhileBusy : Prop :=
  ∀ (s : State) (off : Nat) (rest : List HostAction), s.faulted = none → s.busy = true →
    s.host = .read off 4 :: rest →
    (off = 0x004 → step s = .next { s with reads := s.reads ++ [statusWord s], host := rest }) ∧
    (off = 0x008 → step s = .next { s with reads := s.reads ++ [s.cfgSda ++ s.cfgScl], host := rest }) ∧
    (off ∈ [0x000, 0x00C, 0x010, 0x014, 0x018] ∨ (off % 4 = 0 ∧ 0x100 ≤ off ∧ off ≤ 0x1FC) →
      step s = .next { s with
        reads := s.reads ++ [Config.freeWord s.readDraws], readDraws := s.readDraws + 1, host := rest })

/-- Reads of the registers while BUSY = 0 (R18 to R25): CMD 0, STATUS, PINCFG, ACTPINS, ADDR, RXDATA and LINES, reserved
bits 0, and no side effect. -/
def Obligations.RegistersReadAsLaidOut : Prop :=
  ∀ (s : State) (rest : List HostAction), s.faulted = none → s.busy = false →
    ∀ e ∈ [(0x000, 0#32), (0x004, statusWord s), (0x008, s.cfgSda ++ s.cfgScl), (0x00C, s.actSda ++ s.actScl),
      (0x010, s.saddr.setWidth 32), (0x014, s.rxbyte.setWidth 32), (0x018, linesWord s)],
      s.host = .read e.1 4 :: rest → step s = .next { s with reads := s.reads ++ [e.2], host := rest }

/-- The fields of STATUS (R20), its reserved bits read 0, with the codes of ERR (R87) and of NPHASE (R20). -/
def Obligations.StatusFields : Prop :=
  (∀ s : State,
    (statusWord s).getLsbD 0 = s.busy ∧ (statusWord s).getLsbD 1 = s.isOpen ∧ (statusWord s).getLsbD 2 = s.nack ∧
    (statusWord s).getLsbD 3 = false ∧ (statusWord s).extractLsb' 4 4 = s.err.code ∧
    (statusWord s).extractLsb' 8 3 = s.nphase.code ∧ (statusWord s).extractLsb' 11 5 = 0 ∧
    (statusWord s).extractLsb' 16 8 = s.xcount ∧ (statusWord s).extractLsb' 24 8 = 0) ∧
  (Err.none.code = 0 ∧ Err.nack.code = 1 ∧ Err.precondition.code = 2 ∧ Err.descriptor.code = 3 ∧
    Err.resource.code = 4 ∧ Err.unconfigured.code = 5 ∧ Err.illegalCmd.code = 6) ∧
  (Phase.none.code = 0 ∧ Phase.addrWrite.code = 1 ∧ Phase.command.code = 2 ∧ Phase.data.code = 3 ∧
    Phase.addrRead.code = 4)

/-- LINES (R25): 0 while no bus is open; the latches and the SDA direction while one is. -/
def Obligations.LinesFields : Prop :=
  ∀ s : State, (s.isOpen = false → linesWord s = 0) ∧
    (s.isOpen = true →
      (linesWord s).getLsbD 0 = s.pins.sclLat ∧ (linesWord s).getLsbD 1 = decide (s.pins.sdaDir = .out) ∧
      (linesWord s).getLsbD 2 = s.pins.sdaLat ∧ (linesWord s).extractLsb' 3 29 = 0)

/-- No read has a side effect on the block (R46): it changes only what the host has read, or marks a model fault. -/
def Obligations.ReadsHaveNoSideEffect : Prop :=
  ∀ (s : State) (off bytes : Nat), ∃ r d f,
    hostRead off bytes s = { s with reads := s.reads ++ r, readDraws := d, faulted := f } ∧
    (f = s.faulted ∨ (r = [] ∧ ∃ g, f = some (s.faulted.getD g)))

-- ## Model faults, reset and invariants

/-- FAULTED is never cleared (R38). What a marked machine still does is the model's choice (notes/assumptions/6.md). -/
def Obligations.FaultedIsNeverCleared : Prop :=
  ∀ (s t : State) (r : Fault), s.faulted = some r → step s = .next t → t.faulted = some r

/-- A marked machine still finishes the command in flight (R89) and then stops: it has no final state (R38, R105). The
stop is the model's choice (notes/assumptions/6.md). -/
def Obligations.MarkedMachineStops : Prop :=
  ∀ (s : State) (r : Fault), s.faulted = some r →
    (s.busy = false → step s = .fault r) ∧
    (∀ i, s.busy = true → s.seq = .start → decode s.cur = .ok i → step s = exec i s) ∧
    (∀ body tail fin, s.busy = true → s.seq = .running body tail fin → step s = .next (finish body tail fin s)) ∧
    ¬ Final s

/-- What power-on reset leaves (R39): the values the spec gives. -/
def Obligations.ResetValues : Prop :=
  State.reset.busy = false ∧ State.reset.isOpen = false ∧ State.reset.nack = false ∧ State.reset.err = .none ∧
  State.reset.nphase = .none ∧ State.reset.xcount = 0 ∧ State.reset.cfgScl = 0 ∧ State.reset.cfgSda = 0 ∧
  State.reset.actScl = 0 ∧ State.reset.actSda = 0 ∧ State.reset.saddr = 0 ∧ State.reset.rxbyte = 0 ∧
  statusWord State.reset = 0 ∧ linesWord State.reset = 0 ∧ (∀ i, memRead State.reset.data i = none) ∧
  State.reset.trace = [] ∧ State.reset.faulted = none

/-- A reset at any step gives the values of R39, but TRACE keeps the events already issued, and no pin event follows
(R102). Reset as a host action is the form the model takes (notes/assumptions/18.md). -/
def Obligations.ResetKeepsTrace : Prop :=
  ∀ (s : State) (rest : List HostAction), s.faulted = none → s.host = .reset :: rest →
    ∃ t, step s = .next t ∧ t.trace = s.trace ∧ t.busy = false ∧ t.seq = .idle ∧ t.isOpen = false ∧ t.nack = false ∧
      t.err = .none ∧ t.nphase = .none ∧ t.xcount = 0 ∧ t.cfgScl = 0 ∧ t.cfgSda = 0 ∧ t.actScl = 0 ∧ t.actSda = 0 ∧ t.saddr = 0 ∧
      t.rxbyte = 0 ∧ linesWord t = 0 ∧ (∀ i, memRead t.data i = none) ∧ t.faulted = none ∧ t.host = rest

/-- The machine's invariant holds at reset. The pins of a closed bus are the model's choice (notes/assumptions/10.md). -/
def Obligations.InvariantAtReset : Prop := Invariant State.reset

/-- Every step keeps the machine's invariant (R17, R22, R23, R29, R33, R37, R107): DATA in canonical form, OPEN = 1
exactly while both active pins are nonzero, SADDR[0] = 0, the pins of an open bus outputs between commands with SDA high
where SCL is, and the command in flight leaves all that again. R22, R23, R33 and R107 state these as the spec's own
inferences; the pins of a closed bus are the model's choice (notes/assumptions/10.md). -/
def Obligations.EveryStepKeepsInvariant : Prop :=
  ∀ s t : State, Invariant s → step s = .next t → Invariant t

/-- Every step, from every state, keeps DATA in its canonical form, the model's form of it (notes/assumptions/19.md). -/
def Obligations.EveryStepKeepsDataCanonical : Prop :=
  ∀ s t : State, Memory.wf s.data = true → step s = .next t → Memory.wf t.data = true

-- ## The lines

/-- START makes a start condition from the idle bus, at its first event, and none mid-transaction, under both values of
SDA_OUT_ON_REDIRECT: the spec's own inference (R109), on the line reading of notes/assumptions/21.md. -/
def Obligations.StartConditionOnlyFromIdle : Prop :=
  ∀ (r : Redirect) (s t : State), s.actScl ≠ 0 → s.actSda ≠ 0 → PinsSettled s.pins → exec .start s = .next t →
    conditions r s.pins s.env.draws (newEvents s t) = if s.pins.sclLat then [(1, .start)] else []

/-- RESTART makes exactly one start condition, at its third event, and no stop condition: the spec's own inference (R110),
on the line reading of notes/assumptions/21.md. Mid-transaction it is a repeated start (R106), after one clock with SDA high,
read as notes/assumptions/28.md says. -/
def Obligations.RestartMakesOneStartCondition : Prop :=
  ∀ (r : Redirect) (s t : State), s.actScl ≠ 0 → s.actSda ≠ 0 → PinsSettled s.pins → exec .restart s = .next t →
    conditions r s.pins s.env.draws (newEvents s t) = [(3, .start)] ∧
    busSigns r s.pins s.env.draws (newEvents s t) =
      if s.pins.sclLat then [(3, .start)] else [(2, .bit true), (3, .repeatedStart)]

/-- STOP makes a stop condition, at its second event, only if SDA is low when SCL rises: the spec's own inference (R111),
on the line reading of notes/assumptions/21.md. -/
def Obligations.StopConditionOnlyIfDataLow : Prop :=
  ∀ (r : Redirect) (s t : State), s.actScl ≠ 0 → s.actSda ≠ 0 → PinsSettled s.pins → exec .stop s = .next t →
    conditions r s.pins s.env.draws (newEvents s t) = if s.pins.sclLat = false ∧ s.pins.sdaLat = false then [(2, .stop)] else []

/-- The transitions of SEND's acknowledge window, mid-transaction, by bit 0, the sampled bit and SDA_OUT_ON_REDIRECT: the
spec's own inference (R112), on the line reading of notes/assumptions/21.md. Its clocks show the byte's bits, most
significant first, and then the ninth bit, the acknowledge it samples (R106), read as notes/assumptions/28.md says. -/
def Obligations.AckWindowTransitions : Prop :=
  ∀ (r : Redirect) (s t : State) (b : BitVec 8), s.actScl ≠ 0 → s.actSda ≠ 0 → PinsSettled s.pins →
    s.pins.sclLat = false → exec (.send b) s = .next t →
    conditions r s.pins s.env.draws (newEvents s t) =
      (match b.getLsbD 0, t.nack, r with
      | false, false, _ => []
      | false, true, _ => [(26, .stop), (28, .start)]
      | true, false, .latch => [(26, .start), (28, .stop)]
      | true, false, .low => [(26, .start)]
      | true, true, .latch => []
      | true, true, .low => [(28, .start)]) ∧
    dataSigns (busSigns r s.pins s.env.draws (newEvents s t)) =
      (wireOrder b).map .bit ++ [.ninth (if t.nack then .nack else .ack)]

-- ## Pseudo-instructions

/-- The results of the pseudo-instructions (R85): reads give the masked word where STATUS had ERR = 0, the others 0, and
every failure -1; so the result is negative exactly when the operation failed. -/
def Obligations.PseudoInstructionResults : Prop :=
  ∀ (c : BitVec 8) (v st w : Word) (a : BitVec 7),
    (statusOk st = true →
      pseudoResult (.byteRead c) [st, w] = (w.extractLsb' 0 8).setWidth 32 ∧
      pseudoResult (.wordRead c) [st, w] = (w.extractLsb' 0 16).setWidth 32 ∧
      (∀ p ∈ [Pseudo.quickRead, .byteWrite c v, .wordWrite c v], pseudoResult p [st] = 0) ∧
      pseudoResult (.probe a) [w, st] = 0) ∧
    (statusOk st = false →
      (∀ p ∈ [Pseudo.quickRead, .byteRead c, .wordRead c, .byteWrite c v, .wordWrite c v],
        pseudoResult p [st] = 0xFFFFFFFF#32) ∧
      pseudoResult (.probe a) [w, st] = 0xFFFFFFFF#32)
end

