-- ==== Sys2Proof/Laws/Memory.lean ====
section
/-! SUPPORT. The laws of DATA: a read after a write, and the canonical form every write keeps (R37, R44). -/

namespace Sys2Proof.Machine

@[simp] theorem memRead_nil (a : Nat) : memRead [] a = none := rfl

theorem memRead_cons (x : Nat) (v : Byte) (m : Memory) (a : Nat) :
    memRead ((x, v) :: m) a = if x = a then some v else memRead m a := rfl

/-- The byte written is the byte read. -/
@[simp] theorem memRead_memWrite_same (m : Memory) (a : Nat) (b : Byte) : memRead (memWrite m a b) a = some b := by
  induction m with
  | nil => simp [memWrite, memRead]
  | cons c m ih =>
    obtain ⟨x, v⟩ := c
    simp only [memWrite]
    split
    · simp [memRead]
    · split
      · simp [memRead]
      · rename_i h1 h2
        rw [memRead_cons, if_neg (fun h => h2 h.symm), ih]

/-- A write leaves every other byte alone. -/
theorem memRead_memWrite_other (m : Memory) {a c : Nat} (b : Byte) (h : c ≠ a) :
    memRead (memWrite m a b) c = memRead m c := by
  induction m with
  | nil => simp [memWrite, memRead, h.symm]
  | cons d m ih =>
    obtain ⟨x, v⟩ := d
    simp only [memWrite]
    split
    · rw [memRead_cons, if_neg h.symm]
    · split
      · rename_i h1 h2
        subst h2
        simp [memRead_cons, h.symm]
      · rw [memRead_cons, memRead_cons, ih]

theorem memRead_memWrite (m : Memory) (a c : Nat) (b : Byte) :
    memRead (memWrite m a b) c = if c = a then some b else memRead m c := by
  split
  · rename_i h; subst h; simp
  · rename_i h; exact memRead_memWrite_other m b h

/-- A write at an index below 256 keeps the canonical form from any lower bound. -/
theorem memWfFrom_memWrite (m : Memory) (lo a : Nat) (b : Byte) (hlo : lo ≤ a) (ha : a < 256)
    (h : memWfFrom lo m = true) : memWfFrom lo (memWrite m a b) = true := by
  induction m generalizing lo with
  | nil => simp [memWrite, memWfFrom, hlo, ha]
  | cons c m ih =>
    obtain ⟨x, v⟩ := c
    simp only [memWfFrom, Bool.and_eq_true, decide_eq_true_eq] at h
    obtain ⟨⟨h1, h2⟩, h3⟩ := h
    simp only [memWrite]
    split
    · rename_i hx
      simp [memWfFrom, hlo, ha, h2, h3]
      omega
    · split
      · rename_i hx he
        subst he
        simp [memWfFrom, hlo, ha, h3]
      · rename_i hx he
        simp [memWfFrom, h1, h2, ih (x + 1) (by omega) h3]

/-- Every write of a byte below 256 keeps the canonical form. -/
theorem wf_memWrite (m : Memory) (a : Nat) (b : Byte) (ha : a < 256) (h : Memory.wf m = true) :
    Memory.wf (memWrite m a b) = true := memWfFrom_memWrite m 0 a b (Nat.zero_le a) ha h

/-- A host write of a DATA word keeps the canonical form. -/
theorem wf_setDataWord (m : Memory) (a : Nat) (v : Word) (ha : a + 3 < 256) (h : Memory.wf m = true) :
    Memory.wf (setDataWord m a v) = true :=
  wf_memWrite _ _ _ (by omega) (wf_memWrite _ _ _ (by omega) (wf_memWrite _ _ _ (by omega)
    (wf_memWrite _ _ _ (by omega) h)))

/-- What a DATA word write leaves at each byte (R44). -/
theorem memRead_setDataWord (m : Memory) (a c : Nat) (v : Word) :
    memRead (setDataWord m a v) c =
      if c = a + 3 then some (v.extractLsb' 24 8) else if c = a + 2 then some (v.extractLsb' 16 8)
      else if c = a + 1 then some (v.extractLsb' 8 8) else if c = a then some (v.extractLsb' 0 8)
      else memRead m c := by
  simp only [setDataWord, memRead_memWrite]

/-- Reset DATA is in canonical form. -/
theorem wf_reset : Memory.wf State.reset.data = true := rfl

end Sys2Proof.Machine
end

