-- ==== Sys2Proof/Laws/State.lean ====
section
/-! SUPPORT. What each named update of the state does to each field, one lemma per field, so that no proof unfolds a
record update. -/

namespace Sys2Proof.Machine

-- ## emit

@[simp] theorem emit_busy (e : PinEvent) (s : State) : (emit e s).busy = s.busy := rfl
@[simp] theorem emit_isOpen (e : PinEvent) (s : State) : (emit e s).isOpen = s.isOpen := rfl
@[simp] theorem emit_nack (e : PinEvent) (s : State) : (emit e s).nack = s.nack := rfl
@[simp] theorem emit_err (e : PinEvent) (s : State) : (emit e s).err = s.err := rfl
@[simp] theorem emit_nphase (e : PinEvent) (s : State) : (emit e s).nphase = s.nphase := rfl
@[simp] theorem emit_xcount (e : PinEvent) (s : State) : (emit e s).xcount = s.xcount := rfl
@[simp] theorem emit_cfgScl (e : PinEvent) (s : State) : (emit e s).cfgScl = s.cfgScl := rfl
@[simp] theorem emit_cfgSda (e : PinEvent) (s : State) : (emit e s).cfgSda = s.cfgSda := rfl
@[simp] theorem emit_actScl (e : PinEvent) (s : State) : (emit e s).actScl = s.actScl := rfl
@[simp] theorem emit_actSda (e : PinEvent) (s : State) : (emit e s).actSda = s.actSda := rfl
@[simp] theorem emit_saddr (e : PinEvent) (s : State) : (emit e s).saddr = s.saddr := rfl
@[simp] theorem emit_rxbyte (e : PinEvent) (s : State) : (emit e s).rxbyte = s.rxbyte := rfl
@[simp] theorem emit_pins (e : PinEvent) (s : State) : (emit e s).pins = s.pins := rfl
@[simp] theorem emit_data (e : PinEvent) (s : State) : (emit e s).data = s.data := rfl
@[simp] theorem emit_cur (e : PinEvent) (s : State) : (emit e s).cur = s.cur := rfl
@[simp] theorem emit_seq (e : PinEvent) (s : State) : (emit e s).seq = s.seq := rfl
@[simp] theorem emit_loc (e : PinEvent) (s : State) : (emit e s).loc = s.loc := rfl
@[simp] theorem emit_trace (e : PinEvent) (s : State) : (emit e s).trace = s.trace ++ [e] := rfl
@[simp] theorem emit_faulted (e : PinEvent) (s : State) : (emit e s).faulted = s.faulted := rfl
@[simp] theorem emit_env (e : PinEvent) (s : State) : (emit e s).env = s.env := rfl
@[simp] theorem emit_host (e : PinEvent) (s : State) : (emit e s).host = s.host := rfl
@[simp] theorem emit_reads (e : PinEvent) (s : State) : (emit e s).reads = s.reads := rfl
@[simp] theorem emit_readDraws (e : PinEvent) (s : State) : (emit e s).readDraws = s.readDraws := rfl

-- ## pinSet

@[simp] theorem pinSet_busy (p : Pin) (v : Level) (s : State) : (pinSet p v s).busy = s.busy := rfl
@[simp] theorem pinSet_isOpen (p : Pin) (v : Level) (s : State) : (pinSet p v s).isOpen = s.isOpen := rfl
@[simp] theorem pinSet_nack (p : Pin) (v : Level) (s : State) : (pinSet p v s).nack = s.nack := rfl
@[simp] theorem pinSet_err (p : Pin) (v : Level) (s : State) : (pinSet p v s).err = s.err := rfl
@[simp] theorem pinSet_nphase (p : Pin) (v : Level) (s : State) : (pinSet p v s).nphase = s.nphase := rfl
@[simp] theorem pinSet_xcount (p : Pin) (v : Level) (s : State) : (pinSet p v s).xcount = s.xcount := rfl
@[simp] theorem pinSet_cfgScl (p : Pin) (v : Level) (s : State) : (pinSet p v s).cfgScl = s.cfgScl := rfl
@[simp] theorem pinSet_cfgSda (p : Pin) (v : Level) (s : State) : (pinSet p v s).cfgSda = s.cfgSda := rfl
@[simp] theorem pinSet_actScl (p : Pin) (v : Level) (s : State) : (pinSet p v s).actScl = s.actScl := rfl
@[simp] theorem pinSet_actSda (p : Pin) (v : Level) (s : State) : (pinSet p v s).actSda = s.actSda := rfl
@[simp] theorem pinSet_saddr (p : Pin) (v : Level) (s : State) : (pinSet p v s).saddr = s.saddr := rfl
@[simp] theorem pinSet_rxbyte (p : Pin) (v : Level) (s : State) : (pinSet p v s).rxbyte = s.rxbyte := rfl
@[simp] theorem pinSet_pins (p : Pin) (v : Level) (s : State) : (pinSet p v s).pins = s.pins.setLatch p.line v := rfl
@[simp] theorem pinSet_data (p : Pin) (v : Level) (s : State) : (pinSet p v s).data = s.data := rfl
@[simp] theorem pinSet_cur (p : Pin) (v : Level) (s : State) : (pinSet p v s).cur = s.cur := rfl
@[simp] theorem pinSet_seq (p : Pin) (v : Level) (s : State) : (pinSet p v s).seq = s.seq := rfl
@[simp] theorem pinSet_loc (p : Pin) (v : Level) (s : State) : (pinSet p v s).loc = s.loc := rfl
@[simp] theorem pinSet_trace (p : Pin) (v : Level) (s : State) : (pinSet p v s).trace = s.trace ++ [.level p v] := rfl
@[simp] theorem pinSet_faulted (p : Pin) (v : Level) (s : State) : (pinSet p v s).faulted = s.faulted := rfl
@[simp] theorem pinSet_env (p : Pin) (v : Level) (s : State) : (pinSet p v s).env = s.env := rfl
@[simp] theorem pinSet_host (p : Pin) (v : Level) (s : State) : (pinSet p v s).host = s.host := rfl
@[simp] theorem pinSet_reads (p : Pin) (v : Level) (s : State) : (pinSet p v s).reads = s.reads := rfl
@[simp] theorem pinSet_readDraws (p : Pin) (v : Level) (s : State) : (pinSet p v s).readDraws = s.readDraws := rfl

-- ## pinDir

@[simp] theorem pinDir_busy (p : Pin) (d : Dir) (s : State) : (pinDir p d s).busy = s.busy := rfl
@[simp] theorem pinDir_isOpen (p : Pin) (d : Dir) (s : State) : (pinDir p d s).isOpen = s.isOpen := rfl
@[simp] theorem pinDir_nack (p : Pin) (d : Dir) (s : State) : (pinDir p d s).nack = s.nack := rfl
@[simp] theorem pinDir_err (p : Pin) (d : Dir) (s : State) : (pinDir p d s).err = s.err := rfl
@[simp] theorem pinDir_nphase (p : Pin) (d : Dir) (s : State) : (pinDir p d s).nphase = s.nphase := rfl
@[simp] theorem pinDir_xcount (p : Pin) (d : Dir) (s : State) : (pinDir p d s).xcount = s.xcount := rfl
@[simp] theorem pinDir_cfgScl (p : Pin) (d : Dir) (s : State) : (pinDir p d s).cfgScl = s.cfgScl := rfl
@[simp] theorem pinDir_cfgSda (p : Pin) (d : Dir) (s : State) : (pinDir p d s).cfgSda = s.cfgSda := rfl
@[simp] theorem pinDir_actScl (p : Pin) (d : Dir) (s : State) : (pinDir p d s).actScl = s.actScl := rfl
@[simp] theorem pinDir_actSda (p : Pin) (d : Dir) (s : State) : (pinDir p d s).actSda = s.actSda := rfl
@[simp] theorem pinDir_saddr (p : Pin) (d : Dir) (s : State) : (pinDir p d s).saddr = s.saddr := rfl
@[simp] theorem pinDir_rxbyte (p : Pin) (d : Dir) (s : State) : (pinDir p d s).rxbyte = s.rxbyte := rfl
@[simp] theorem pinDir_pins (p : Pin) (d : Dir) (s : State) : (pinDir p d s).pins = s.pins.setDir Config.sdaOutOnRedirect p.line d := rfl
@[simp] theorem pinDir_data (p : Pin) (d : Dir) (s : State) : (pinDir p d s).data = s.data := rfl
@[simp] theorem pinDir_cur (p : Pin) (d : Dir) (s : State) : (pinDir p d s).cur = s.cur := rfl
@[simp] theorem pinDir_seq (p : Pin) (d : Dir) (s : State) : (pinDir p d s).seq = s.seq := rfl
@[simp] theorem pinDir_loc (p : Pin) (d : Dir) (s : State) : (pinDir p d s).loc = s.loc := rfl
@[simp] theorem pinDir_trace (p : Pin) (d : Dir) (s : State) : (pinDir p d s).trace = s.trace ++ [.dir p d] := rfl
@[simp] theorem pinDir_faulted (p : Pin) (d : Dir) (s : State) : (pinDir p d s).faulted = s.faulted := rfl
@[simp] theorem pinDir_env (p : Pin) (d : Dir) (s : State) : (pinDir p d s).env = s.env := rfl
@[simp] theorem pinDir_host (p : Pin) (d : Dir) (s : State) : (pinDir p d s).host = s.host := rfl
@[simp] theorem pinDir_reads (p : Pin) (d : Dir) (s : State) : (pinDir p d s).reads = s.reads := rfl
@[simp] theorem pinDir_readDraws (p : Pin) (d : Dir) (s : State) : (pinDir p d s).readDraws = s.readDraws := rfl

-- ## markFault

@[simp] theorem markFault_busy (r : Fault) (s : State) : (markFault r s).busy = s.busy := rfl
@[simp] theorem markFault_isOpen (r : Fault) (s : State) : (markFault r s).isOpen = s.isOpen := rfl
@[simp] theorem markFault_nack (r : Fault) (s : State) : (markFault r s).nack = s.nack := rfl
@[simp] theorem markFault_err (r : Fault) (s : State) : (markFault r s).err = s.err := rfl
@[simp] theorem markFault_nphase (r : Fault) (s : State) : (markFault r s).nphase = s.nphase := rfl
@[simp] theorem markFault_xcount (r : Fault) (s : State) : (markFault r s).xcount = s.xcount := rfl
@[simp] theorem markFault_cfgScl (r : Fault) (s : State) : (markFault r s).cfgScl = s.cfgScl := rfl
@[simp] theorem markFault_cfgSda (r : Fault) (s : State) : (markFault r s).cfgSda = s.cfgSda := rfl
@[simp] theorem markFault_actScl (r : Fault) (s : State) : (markFault r s).actScl = s.actScl := rfl
@[simp] theorem markFault_actSda (r : Fault) (s : State) : (markFault r s).actSda = s.actSda := rfl
@[simp] theorem markFault_saddr (r : Fault) (s : State) : (markFault r s).saddr = s.saddr := rfl
@[simp] theorem markFault_rxbyte (r : Fault) (s : State) : (markFault r s).rxbyte = s.rxbyte := rfl
@[simp] theorem markFault_pins (r : Fault) (s : State) : (markFault r s).pins = s.pins := rfl
@[simp] theorem markFault_data (r : Fault) (s : State) : (markFault r s).data = s.data := rfl
@[simp] theorem markFault_cur (r : Fault) (s : State) : (markFault r s).cur = s.cur := rfl
@[simp] theorem markFault_seq (r : Fault) (s : State) : (markFault r s).seq = s.seq := rfl
@[simp] theorem markFault_loc (r : Fault) (s : State) : (markFault r s).loc = s.loc := rfl
@[simp] theorem markFault_trace (r : Fault) (s : State) : (markFault r s).trace = s.trace := rfl
@[simp] theorem markFault_faulted (r : Fault) (s : State) : (markFault r s).faulted = some (s.faulted.getD r) := rfl
@[simp] theorem markFault_env (r : Fault) (s : State) : (markFault r s).env = s.env := rfl
@[simp] theorem markFault_host (r : Fault) (s : State) : (markFault r s).host = s.host := rfl
@[simp] theorem markFault_reads (r : Fault) (s : State) : (markFault r s).reads = s.reads := rfl
@[simp] theorem markFault_readDraws (r : Fault) (s : State) : (markFault r s).readDraws = s.readDraws := rfl

-- ## toIdle

@[simp] theorem toIdle_busy (s : State) : (toIdle s).busy = false := rfl
@[simp] theorem toIdle_isOpen (s : State) : (toIdle s).isOpen = s.isOpen := rfl
@[simp] theorem toIdle_nack (s : State) : (toIdle s).nack = s.nack := rfl
@[simp] theorem toIdle_err (s : State) : (toIdle s).err = s.err := rfl
@[simp] theorem toIdle_nphase (s : State) : (toIdle s).nphase = s.nphase := rfl
@[simp] theorem toIdle_xcount (s : State) : (toIdle s).xcount = s.xcount := rfl
@[simp] theorem toIdle_cfgScl (s : State) : (toIdle s).cfgScl = s.cfgScl := rfl
@[simp] theorem toIdle_cfgSda (s : State) : (toIdle s).cfgSda = s.cfgSda := rfl
@[simp] theorem toIdle_actScl (s : State) : (toIdle s).actScl = s.actScl := rfl
@[simp] theorem toIdle_actSda (s : State) : (toIdle s).actSda = s.actSda := rfl
@[simp] theorem toIdle_saddr (s : State) : (toIdle s).saddr = s.saddr := rfl
@[simp] theorem toIdle_rxbyte (s : State) : (toIdle s).rxbyte = s.rxbyte := rfl
@[simp] theorem toIdle_pins (s : State) : (toIdle s).pins = s.pins := rfl
@[simp] theorem toIdle_data (s : State) : (toIdle s).data = s.data := rfl
@[simp] theorem toIdle_cur (s : State) : (toIdle s).cur = s.cur := rfl
@[simp] theorem toIdle_seq (s : State) : (toIdle s).seq = .idle := rfl
@[simp] theorem toIdle_loc (s : State) : (toIdle s).loc = Locals.init := rfl
@[simp] theorem toIdle_trace (s : State) : (toIdle s).trace = s.trace := rfl
@[simp] theorem toIdle_faulted (s : State) : (toIdle s).faulted = s.faulted := rfl
@[simp] theorem toIdle_env (s : State) : (toIdle s).env = s.env := rfl
@[simp] theorem toIdle_host (s : State) : (toIdle s).host = s.host := rfl
@[simp] theorem toIdle_reads (s : State) : (toIdle s).reads = s.reads := rfl
@[simp] theorem toIdle_readDraws (s : State) : (toIdle s).readDraws = s.readDraws := rfl

-- ## acceptCommand

@[simp] theorem acceptCommand_busy (w : Word) (s : State) : (acceptCommand w s).busy = true := rfl
@[simp] theorem acceptCommand_isOpen (w : Word) (s : State) : (acceptCommand w s).isOpen = s.isOpen := rfl
@[simp] theorem acceptCommand_nack (w : Word) (s : State) : (acceptCommand w s).nack = s.nack := rfl
@[simp] theorem acceptCommand_err (w : Word) (s : State) : (acceptCommand w s).err = s.err := rfl
@[simp] theorem acceptCommand_nphase (w : Word) (s : State) : (acceptCommand w s).nphase = s.nphase := rfl
@[simp] theorem acceptCommand_xcount (w : Word) (s : State) : (acceptCommand w s).xcount = s.xcount := rfl
@[simp] theorem acceptCommand_cfgScl (w : Word) (s : State) : (acceptCommand w s).cfgScl = s.cfgScl := rfl
@[simp] theorem acceptCommand_cfgSda (w : Word) (s : State) : (acceptCommand w s).cfgSda = s.cfgSda := rfl
@[simp] theorem acceptCommand_actScl (w : Word) (s : State) : (acceptCommand w s).actScl = s.actScl := rfl
@[simp] theorem acceptCommand_actSda (w : Word) (s : State) : (acceptCommand w s).actSda = s.actSda := rfl
@[simp] theorem acceptCommand_saddr (w : Word) (s : State) : (acceptCommand w s).saddr = s.saddr := rfl
@[simp] theorem acceptCommand_rxbyte (w : Word) (s : State) : (acceptCommand w s).rxbyte = s.rxbyte := rfl
@[simp] theorem acceptCommand_pins (w : Word) (s : State) : (acceptCommand w s).pins = s.pins := rfl
@[simp] theorem acceptCommand_data (w : Word) (s : State) : (acceptCommand w s).data = s.data := rfl
@[simp] theorem acceptCommand_cur (w : Word) (s : State) : (acceptCommand w s).cur = w := rfl
@[simp] theorem acceptCommand_seq (w : Word) (s : State) : (acceptCommand w s).seq = .start := rfl
@[simp] theorem acceptCommand_loc (w : Word) (s : State) : (acceptCommand w s).loc = s.loc := rfl
@[simp] theorem acceptCommand_trace (w : Word) (s : State) : (acceptCommand w s).trace = s.trace := rfl
@[simp] theorem acceptCommand_faulted (w : Word) (s : State) : (acceptCommand w s).faulted = s.faulted := rfl
@[simp] theorem acceptCommand_env (w : Word) (s : State) : (acceptCommand w s).env = s.env := rfl
@[simp] theorem acceptCommand_host (w : Word) (s : State) : (acceptCommand w s).host = s.host := rfl
@[simp] theorem acceptCommand_reads (w : Word) (s : State) : (acceptCommand w s).reads = s.reads := rfl
@[simp] theorem acceptCommand_readDraws (w : Word) (s : State) : (acceptCommand w s).readDraws = s.readDraws := rfl

-- ## popHost

@[simp] theorem popHost_busy (s : State) : (popHost s).busy = s.busy := rfl
@[simp] theorem popHost_isOpen (s : State) : (popHost s).isOpen = s.isOpen := rfl
@[simp] theorem popHost_nack (s : State) : (popHost s).nack = s.nack := rfl
@[simp] theorem popHost_err (s : State) : (popHost s).err = s.err := rfl
@[simp] theorem popHost_nphase (s : State) : (popHost s).nphase = s.nphase := rfl
@[simp] theorem popHost_xcount (s : State) : (popHost s).xcount = s.xcount := rfl
@[simp] theorem popHost_cfgScl (s : State) : (popHost s).cfgScl = s.cfgScl := rfl
@[simp] theorem popHost_cfgSda (s : State) : (popHost s).cfgSda = s.cfgSda := rfl
@[simp] theorem popHost_actScl (s : State) : (popHost s).actScl = s.actScl := rfl
@[simp] theorem popHost_actSda (s : State) : (popHost s).actSda = s.actSda := rfl
@[simp] theorem popHost_saddr (s : State) : (popHost s).saddr = s.saddr := rfl
@[simp] theorem popHost_rxbyte (s : State) : (popHost s).rxbyte = s.rxbyte := rfl
@[simp] theorem popHost_pins (s : State) : (popHost s).pins = s.pins := rfl
@[simp] theorem popHost_data (s : State) : (popHost s).data = s.data := rfl
@[simp] theorem popHost_cur (s : State) : (popHost s).cur = s.cur := rfl
@[simp] theorem popHost_seq (s : State) : (popHost s).seq = s.seq := rfl
@[simp] theorem popHost_loc (s : State) : (popHost s).loc = s.loc := rfl
@[simp] theorem popHost_trace (s : State) : (popHost s).trace = s.trace := rfl
@[simp] theorem popHost_faulted (s : State) : (popHost s).faulted = s.faulted := rfl
@[simp] theorem popHost_env (s : State) : (popHost s).env = s.env := rfl
@[simp] theorem popHost_host (s : State) : (popHost s).host = s.host.tail := rfl
@[simp] theorem popHost_reads (s : State) : (popHost s).reads = s.reads := rfl
@[simp] theorem popHost_readDraws (s : State) : (popHost s).readDraws = s.readDraws := rfl

-- ## returnRead

@[simp] theorem returnRead_busy (v : Word) (s : State) : (returnRead v s).busy = s.busy := rfl
@[simp] theorem returnRead_isOpen (v : Word) (s : State) : (returnRead v s).isOpen = s.isOpen := rfl
@[simp] theorem returnRead_nack (v : Word) (s : State) : (returnRead v s).nack = s.nack := rfl
@[simp] theorem returnRead_err (v : Word) (s : State) : (returnRead v s).err = s.err := rfl
@[simp] theorem returnRead_nphase (v : Word) (s : State) : (returnRead v s).nphase = s.nphase := rfl
@[simp] theorem returnRead_xcount (v : Word) (s : State) : (returnRead v s).xcount = s.xcount := rfl
@[simp] theorem returnRead_cfgScl (v : Word) (s : State) : (returnRead v s).cfgScl = s.cfgScl := rfl
@[simp] theorem returnRead_cfgSda (v : Word) (s : State) : (returnRead v s).cfgSda = s.cfgSda := rfl
@[simp] theorem returnRead_actScl (v : Word) (s : State) : (returnRead v s).actScl = s.actScl := rfl
@[simp] theorem returnRead_actSda (v : Word) (s : State) : (returnRead v s).actSda = s.actSda := rfl
@[simp] theorem returnRead_saddr (v : Word) (s : State) : (returnRead v s).saddr = s.saddr := rfl
@[simp] theorem returnRead_rxbyte (v : Word) (s : State) : (returnRead v s).rxbyte = s.rxbyte := rfl
@[simp] theorem returnRead_pins (v : Word) (s : State) : (returnRead v s).pins = s.pins := rfl
@[simp] theorem returnRead_data (v : Word) (s : State) : (returnRead v s).data = s.data := rfl
@[simp] theorem returnRead_cur (v : Word) (s : State) : (returnRead v s).cur = s.cur := rfl
@[simp] theorem returnRead_seq (v : Word) (s : State) : (returnRead v s).seq = s.seq := rfl
@[simp] theorem returnRead_loc (v : Word) (s : State) : (returnRead v s).loc = s.loc := rfl
@[simp] theorem returnRead_trace (v : Word) (s : State) : (returnRead v s).trace = s.trace := rfl
@[simp] theorem returnRead_faulted (v : Word) (s : State) : (returnRead v s).faulted = s.faulted := rfl
@[simp] theorem returnRead_env (v : Word) (s : State) : (returnRead v s).env = s.env := rfl
@[simp] theorem returnRead_host (v : Word) (s : State) : (returnRead v s).host = s.host := rfl
@[simp] theorem returnRead_reads (v : Word) (s : State) : (returnRead v s).reads = s.reads ++ [v] := rfl
@[simp] theorem returnRead_readDraws (v : Word) (s : State) : (returnRead v s).readDraws = s.readDraws := rfl

-- ## returnFree

@[simp] theorem returnFree_busy (s : State) : (returnFree s).busy = s.busy := rfl
@[simp] theorem returnFree_isOpen (s : State) : (returnFree s).isOpen = s.isOpen := rfl
@[simp] theorem returnFree_nack (s : State) : (returnFree s).nack = s.nack := rfl
@[simp] theorem returnFree_err (s : State) : (returnFree s).err = s.err := rfl
@[simp] theorem returnFree_nphase (s : State) : (returnFree s).nphase = s.nphase := rfl
@[simp] theorem returnFree_xcount (s : State) : (returnFree s).xcount = s.xcount := rfl
@[simp] theorem returnFree_cfgScl (s : State) : (returnFree s).cfgScl = s.cfgScl := rfl
@[simp] theorem returnFree_cfgSda (s : State) : (returnFree s).cfgSda = s.cfgSda := rfl
@[simp] theorem returnFree_actScl (s : State) : (returnFree s).actScl = s.actScl := rfl
@[simp] theorem returnFree_actSda (s : State) : (returnFree s).actSda = s.actSda := rfl
@[simp] theorem returnFree_saddr (s : State) : (returnFree s).saddr = s.saddr := rfl
@[simp] theorem returnFree_rxbyte (s : State) : (returnFree s).rxbyte = s.rxbyte := rfl
@[simp] theorem returnFree_pins (s : State) : (returnFree s).pins = s.pins := rfl
@[simp] theorem returnFree_data (s : State) : (returnFree s).data = s.data := rfl
@[simp] theorem returnFree_cur (s : State) : (returnFree s).cur = s.cur := rfl
@[simp] theorem returnFree_seq (s : State) : (returnFree s).seq = s.seq := rfl
@[simp] theorem returnFree_loc (s : State) : (returnFree s).loc = s.loc := rfl
@[simp] theorem returnFree_trace (s : State) : (returnFree s).trace = s.trace := rfl
@[simp] theorem returnFree_faulted (s : State) : (returnFree s).faulted = s.faulted := rfl
@[simp] theorem returnFree_env (s : State) : (returnFree s).env = s.env := rfl
@[simp] theorem returnFree_host (s : State) : (returnFree s).host = s.host := rfl
@[simp] theorem returnFree_reads (s : State) : (returnFree s).reads = s.reads ++ [Config.freeWord s.readDraws] := rfl
@[simp] theorem returnFree_readDraws (s : State) : (returnFree s).readDraws = s.readDraws + 1 := rfl

-- ## resetAction

@[simp] theorem resetAction_busy (s : State) : (resetAction s).busy = State.reset.busy := rfl
@[simp] theorem resetAction_isOpen (s : State) : (resetAction s).isOpen = State.reset.isOpen := rfl
@[simp] theorem resetAction_nack (s : State) : (resetAction s).nack = State.reset.nack := rfl
@[simp] theorem resetAction_err (s : State) : (resetAction s).err = State.reset.err := rfl
@[simp] theorem resetAction_nphase (s : State) : (resetAction s).nphase = State.reset.nphase := rfl
@[simp] theorem resetAction_xcount (s : State) : (resetAction s).xcount = State.reset.xcount := rfl
@[simp] theorem resetAction_cfgScl (s : State) : (resetAction s).cfgScl = State.reset.cfgScl := rfl
@[simp] theorem resetAction_cfgSda (s : State) : (resetAction s).cfgSda = State.reset.cfgSda := rfl
@[simp] theorem resetAction_actScl (s : State) : (resetAction s).actScl = State.reset.actScl := rfl
@[simp] theorem resetAction_actSda (s : State) : (resetAction s).actSda = State.reset.actSda := rfl
@[simp] theorem resetAction_saddr (s : State) : (resetAction s).saddr = State.reset.saddr := rfl
@[simp] theorem resetAction_rxbyte (s : State) : (resetAction s).rxbyte = State.reset.rxbyte := rfl
@[simp] theorem resetAction_pins (s : State) : (resetAction s).pins = State.reset.pins := rfl
@[simp] theorem resetAction_data (s : State) : (resetAction s).data = State.reset.data := rfl
@[simp] theorem resetAction_cur (s : State) : (resetAction s).cur = State.reset.cur := rfl
@[simp] theorem resetAction_seq (s : State) : (resetAction s).seq = State.reset.seq := rfl
@[simp] theorem resetAction_loc (s : State) : (resetAction s).loc = State.reset.loc := rfl
@[simp] theorem resetAction_trace (s : State) : (resetAction s).trace = s.trace := rfl
@[simp] theorem resetAction_faulted (s : State) : (resetAction s).faulted = State.reset.faulted := rfl
@[simp] theorem resetAction_env (s : State) : (resetAction s).env = s.env := rfl
@[simp] theorem resetAction_host (s : State) : (resetAction s).host = s.host := rfl
@[simp] theorem resetAction_reads (s : State) : (resetAction s).reads = s.reads := rfl
@[simp] theorem resetAction_readDraws (s : State) : (resetAction s).readDraws = s.readDraws := rfl

-- ## setLoc

@[simp] theorem setLoc_busy (l : Locals) (s : State) : (setLoc l s).busy = s.busy := rfl
@[simp] theorem setLoc_isOpen (l : Locals) (s : State) : (setLoc l s).isOpen = s.isOpen := rfl
@[simp] theorem setLoc_nack (l : Locals) (s : State) : (setLoc l s).nack = s.nack := rfl
@[simp] theorem setLoc_err (l : Locals) (s : State) : (setLoc l s).err = s.err := rfl
@[simp] theorem setLoc_nphase (l : Locals) (s : State) : (setLoc l s).nphase = s.nphase := rfl
@[simp] theorem setLoc_xcount (l : Locals) (s : State) : (setLoc l s).xcount = s.xcount := rfl
@[simp] theorem setLoc_cfgScl (l : Locals) (s : State) : (setLoc l s).cfgScl = s.cfgScl := rfl
@[simp] theorem setLoc_cfgSda (l : Locals) (s : State) : (setLoc l s).cfgSda = s.cfgSda := rfl
@[simp] theorem setLoc_actScl (l : Locals) (s : State) : (setLoc l s).actScl = s.actScl := rfl
@[simp] theorem setLoc_actSda (l : Locals) (s : State) : (setLoc l s).actSda = s.actSda := rfl
@[simp] theorem setLoc_saddr (l : Locals) (s : State) : (setLoc l s).saddr = s.saddr := rfl
@[simp] theorem setLoc_rxbyte (l : Locals) (s : State) : (setLoc l s).rxbyte = s.rxbyte := rfl
@[simp] theorem setLoc_pins (l : Locals) (s : State) : (setLoc l s).pins = s.pins := rfl
@[simp] theorem setLoc_data (l : Locals) (s : State) : (setLoc l s).data = s.data := rfl
@[simp] theorem setLoc_cur (l : Locals) (s : State) : (setLoc l s).cur = s.cur := rfl
@[simp] theorem setLoc_seq (l : Locals) (s : State) : (setLoc l s).seq = s.seq := rfl
@[simp] theorem setLoc_loc (l : Locals) (s : State) : (setLoc l s).loc = l := rfl
@[simp] theorem setLoc_trace (l : Locals) (s : State) : (setLoc l s).trace = s.trace := rfl
@[simp] theorem setLoc_faulted (l : Locals) (s : State) : (setLoc l s).faulted = s.faulted := rfl
@[simp] theorem setLoc_env (l : Locals) (s : State) : (setLoc l s).env = s.env := rfl
@[simp] theorem setLoc_host (l : Locals) (s : State) : (setLoc l s).host = s.host := rfl
@[simp] theorem setLoc_reads (l : Locals) (s : State) : (setLoc l s).reads = s.reads := rfl
@[simp] theorem setLoc_readDraws (l : Locals) (s : State) : (setLoc l s).readDraws = s.readDraws := rfl

end Sys2Proof.Machine
end

