-- ==== Sys2Proof/Laws/Engine.lean ====
section
/-! SUPPORT. What the engine can do, said once: each pin operation appends one event and touches only the pins, DATA, the
local variables, the trace and the environment, and depends on nothing else (R35, R63). -/

namespace Sys2Proof.Machine

/-- The parts the engine's pin operations work on, from `s`, in a state that is otherwise `k`. -/
def graft (k s : State) : State :=
  { k with pins := s.pins, data := s.data, loc := s.loc, trace := s.trace, env := s.env }

@[simp] theorem graft_self (s : State) : graft s s = s := rfl

@[simp] theorem graft_graft (k l s : State) : graft k (graft l s) = graft k s := rfl

@[simp] theorem graft_loc (k s : State) : (graft k s).loc = s.loc := rfl

/-- A pin operation commutes with any change outside the parts it works on. -/
theorem doOp_graft (op : PinOp) (k s : State) : doOp op (graft k s) = graft k (doOp op s) := by
  cases op with
  | set p v => rfl
  | dir p d => rfl
  | getAck p =>
    simp only [doOp, pinGet, sampleLine]
    cases h : s.pins.driven p.line <;> simp [graft, h, draw, emit, setLoc]
  | endSend p r => rfl
  | beginRecv p => rfl
  | getBit p i =>
    simp only [doOp, pinGet, sampleLine]
    cases h : s.pins.driven p.line <;> simp [graft, h, draw, emit, setLoc]
  | endRecv p d => cases d <;> rfl
  | exportPin p => rfl
  | unexportPin p => rfl

theorem runBody_graft (ops : List PinOp) (k s : State) : runBody ops (graft k s) = graft k (runBody ops s) := by
  induction ops generalizing s with
  | nil => rfl
  | cons op rest ih =>
    simp only [runBody, doOp_graft, graft_loc]
    split
    · rfl
    · exact ih _

theorem runTail_graft (ops : List PinOp) (k s : State) : runTail ops (graft k s) = graft k (runTail ops s) := by
  induction ops generalizing s with
  | nil => rfl
  | cons op rest ih => simp only [runTail, doOp_graft, ih]

/-- Frame of a pin operation: everything outside the engine's parts is unchanged. -/
theorem doOp_frame (op : PinOp) (s : State) : doOp op s = graft s (doOp op s) := by
  rw [← doOp_graft, graft_self]

theorem runBody_frame (ops : List PinOp) (s : State) : runBody ops s = graft s (runBody ops s) := by
  rw [← runBody_graft, graft_self]

theorem runTail_frame (ops : List PinOp) (s : State) : runTail ops s = graft s (runTail ops s) := by
  rw [← runTail_graft, graft_self]

/-- Every pin operation appends exactly one event (R35). -/
theorem doOp_trace (op : PinOp) (s : State) : ∃ e, (doOp op s).trace = s.trace ++ [e] := by
  cases op with
  | set p v => exact ⟨_, rfl⟩
  | dir p d => exact ⟨_, rfl⟩
  | getAck p =>
    simp only [doOp, pinGet, sampleLine]
    cases s.pins.driven p.line <;> exact ⟨_, rfl⟩
  | endSend p r => exact ⟨_, rfl⟩
  | beginRecv p => exact ⟨_, rfl⟩
  | getBit p i =>
    simp only [doOp, pinGet, sampleLine]
    cases s.pins.driven p.line <;> exact ⟨_, rfl⟩
  | endRecv p d => cases d <;> exact ⟨_, rfl⟩
  | exportPin p => exact ⟨_, rfl⟩
  | unexportPin p => exact ⟨_, rfl⟩

/-- Running a body appends at most one event an operation, and only appends. -/
theorem runBody_trace (ops : List PinOp) (s : State) :
    ∃ es, (runBody ops s).trace = s.trace ++ es ∧ es.length ≤ ops.length := by
  induction ops generalizing s with
  | nil => exact ⟨[], by simp [runBody]⟩
  | cons op rest ih =>
    obtain ⟨e, he⟩ := doOp_trace op s
    simp only [runBody]
    split
    · exact ⟨[e], by simp [he]⟩
    · obtain ⟨es, h1, h2⟩ := ih (doOp op s)
      exact ⟨e :: es, by simp [h1, he], by simpa using h2⟩

/-- Running a tail appends exactly one event an operation. -/
theorem runTail_trace (ops : List PinOp) (s : State) :
    ∃ es, (runTail ops s).trace = s.trace ++ es ∧ es.length = ops.length := by
  induction ops generalizing s with
  | nil => exact ⟨[], by simp [runTail]⟩
  | cons op rest ih =>
    obtain ⟨e, he⟩ := doOp_trace op s
    obtain ⟨es, h1, h2⟩ := ih (doOp op s)
    exact ⟨e :: es, by simp [runTail, h1, he], by simpa using h2⟩

/-- Every pin operation keeps the canonical form of DATA. -/
theorem doOp_wf (op : PinOp) (s : State) (h : Memory.wf s.data = true) : Memory.wf (doOp op s).data = true := by
  cases op with
  | set p v => exact h
  | dir p d => exact h
  | getAck p =>
    simp only [doOp, pinGet, sampleLine]
    cases s.pins.driven p.line <;> exact h
  | endSend p r => exact h
  | beginRecv p => exact h
  | getBit p i =>
    simp only [doOp, pinGet, sampleLine]
    cases s.pins.driven p.line <;> exact h
  | endRecv p d =>
    cases d with
    | none => exact h
    | some i => exact wf_memWrite _ _ _ i.isLt h
  | exportPin p => exact h
  | unexportPin p => exact h

theorem runBody_wf (ops : List PinOp) (s : State) (h : Memory.wf s.data = true) :
    Memory.wf (runBody ops s).data = true := by
  induction ops generalizing s with
  | nil => exact h
  | cons op rest ih =>
    simp only [runBody]
    split
    · exact doOp_wf op s h
    · exact ih _ (doOp_wf op s h)

theorem runTail_wf (ops : List PinOp) (s : State) (h : Memory.wf s.data = true) :
    Memory.wf (runTail ops s).data = true := by
  induction ops generalizing s with
  | nil => exact h
  | cons op rest ih => exact ih _ (doOp_wf op s h)

/-- Running operations one after another, where the first part does not abort. -/
theorem runBody_append (xs ys : List PinOp) (s : State) :
    runBody (xs ++ ys) s =
      if xs ≠ [] ∧ (runBody xs s).loc.abort = true then runBody xs s else runBody ys (runBody xs s) := by
  induction xs generalizing s with
  | nil => simp [runBody]
  | cons op rest ih =>
    simp only [List.cons_append, runBody]
    by_cases h : (doOp op s).loc.abort = true
    · simp [h]
    · simp only [h, if_neg, Bool.false_eq_true, not_false_eq_true, ih]
      cases rest with
      | nil => simp [runBody, h]
      | cons => simp

end Sys2Proof.Machine
end

