-- ==== Sys2Proof/Laws/Lines.lean ====
section
/-! SUPPORT. The reading of a trace agrees with the machine's own pin state, and what OPEN does on the lines (R30, R31,
R117). -/

namespace Sys2Proof.Machine

/-- A pin operation leaves the trace, the pins and the count of draws that reading its event gives. Only an unexport keeps
the pin fields: while OPEN = 1 they hold the state of R29, until CLOSE's completion step drops both pins. -/
theorem doOp_reads_back (op : PinOp) (s : State) :
    ∃ e, (doOp op s).trace = s.trace ++ [e] ∧
      (doOp op s).pins = (match e with
        | .unexported _ _ => s.pins
        | _ => pinsAfter Config.sdaOutOnRedirect s.pins s.env.draws e) ∧
      (doOp op s).env.draws = drawsAfter s.pins s.env.draws e := by
  have hn : ∀ v : Env, v.next.2.draws = v.draws + 1 := by
    intro v; simp only [Env.next]; split <;> rfl
  cases op with
  | set p v => exact ⟨_, rfl, rfl, rfl⟩
  | dir p d => exact ⟨_, rfl, rfl, rfl⟩
  | getAck p =>
    refine ⟨.sample p (sampleLine p s).1, ?_, ?_, ?_⟩ <;> simp only [doOp, pinGet, sampleLine, drawsAfter, pinsAfter] <;>
      cases s.pins.driven p.line <;> simp [setLoc, emit, draw, hn]
  | endSend p r => exact ⟨_, rfl, rfl, rfl⟩
  | beginRecv p => exact ⟨_, rfl, rfl, rfl⟩
  | getBit p i =>
    refine ⟨.sample p (sampleLine p s).1, ?_, ?_, ?_⟩ <;> simp only [doOp, pinGet, sampleLine, drawsAfter, pinsAfter] <;>
      cases s.pins.driven p.line <;> simp [setLoc, emit, draw, hn]
  | endRecv p d => cases d <;> exact ⟨_, rfl, rfl, rfl⟩
  | exportPin p => exact ⟨_, rfl, rfl, hn _⟩
  | unexportPin p => exact ⟨_, rfl, rfl, hn _⟩

/-- No event makes a condition where the block does not drive SCL on both sides of it (R116). -/
theorem condition_none_of_undriven {x : LineStep} (h : x.sclBefore = none ∨ x.sclAfter = none) : x.condition = none := by
  rcases h with h | h <;> simp [LineStep.condition, conditionAt, h]

/-- A released pin is not driven, and the other pin is as before (R116). -/
theorem driven_release (p : Pins) (l l' : Line) : (p.release l).driven l' = if l = l' then none else p.driven l' := by
  cases l <;> cases l' <;> rfl

/-- The condition a sign stands for; none for a bit. -/
def BusSign.condition (x : BusSign) : Option Condition :=
  match x with
  | .start => some .start
  | .repeatedStart => some .start
  | .stop => some .stop
  | .bit _ => none
  | .ninth _ => none

/-- A reader's sign at a line step stands for the step's condition. -/
theorem next_condition (b : BusReader) (x : LineStep) : (b.next x).2.bind BusSign.condition = x.condition := by
  rw [BusReader.next]
  cases x.condition with
  | none =>
    cases x.clockedBit with
    | none => rfl
    | some v => dsimp only; split <;> rfl
  | some c => cases c <;> cases b.inProgress <;> rfl

/-- The conditions among the signs a reader sees are the conditions of the events (R106). -/
theorem busSigns_conditions (r : Redirect) (p : Pins) (n : Nat) (es : List PinEvent) :
    (busSigns r p n es).filterMap (fun x => x.2.condition.map (x.1, ·)) = conditions r p n es := by
  have key : ∀ (xs : List LineStep) (b : BusReader),
      (signsFrom b xs).filterMap (fun x => x.2.condition.map (x.1, ·)) =
        xs.filterMap (fun x => x.condition.map (x.event, ·)) := by
    intro xs
    induction xs with
    | nil => intro b; rfl
    | cons x rest ih =>
      intro b
      rw [signsFrom, List.filterMap_append, ih, List.filterMap_cons, ← next_condition b x]
      cases (b.next x).2 with
      | none => simp
      | some y => cases h : y.condition <;> simp [h]
  exact key _ _

/-- Where the block drives both lines, the bus is idle exactly when both are high (R106). -/
theorem busIdle_of_driven {s : State} {c d : Level} (hc : sclLine s = some c) (hd : sdaLine s = some d) :
    busIdle s = (c && d) := by simp [busIdle, hc, hd]

/-- A line the block holds low makes the bus not idle, whatever the other line's level (R106). -/
theorem busIdle_false_of_low {s : State} (h : sclLine s = some false ∨ sdaLine s = some false) : busIdle s = false := by
  rcases h with h | h <;> simp [busIdle, h]

/-- While SDA is an input and the block holds SCL high, the bus is idle exactly when the peer's level is high (R31, R106). -/
theorem busIdle_of_input {s : State} (hc : sclLine s = some true) (hd : sdaLine s = none) :
    busIdle s = Config.undrivenSda s.trace.length := by simp [busIdle, hc, hd]

/-- The events of a successful OPEN (R73). -/
def openEvents (w : Wires) : List PinEvent :=
  [.exported w.scl true, .exported w.sda true, .dir w.scl .out, .dir w.sda .out, .level w.scl true, .level w.sda true]

/-- Under LOW, OPEN makes exactly one stop condition, at its last event (R117). -/
theorem conditions_open_low (c d : PinNum) (n : Nat) :
    conditions .low Pins.unowned n (openEvents ⟨⟨.scl, c⟩, ⟨.sda, d⟩⟩) = [(6, .stop)] := by
  simp [conditions, lineSteps, lineStepsFrom, LineStep.condition, openEvents, pinsAfter, sdaLevel, Pins.unowned,
    Pins.driven, Pins.setLatch, Pins.setDir, Pins.handOver, redirectLatch, conditionAt]

/-- Under LATCH, OPEN puts on the bus what the latches the pins held before make of it (R117): an edge of SDA at its fourth
event only where SCL's latch was high, and a stop condition at its last only where SDA's was low. -/
theorem conditions_open_latch (c d : PinNum) (n : Nat) :
    ∃ before : Level, conditions .latch Pins.unowned n (openEvents ⟨⟨.scl, c⟩, ⟨.sda, d⟩⟩) =
      ((conditionAt (some (Config.freeLatch n)) (some (Config.freeLatch n)) before
        (Config.freeLatch (n + 1))).map (4, ·)).toList ++
      (if Config.freeLatch (n + 1) then [] else [(6, .stop)]) := by
  generalize h1 : Config.freeLatch n = x
  generalize h2 : Config.freeLatch (n + 1) = y
  refine ⟨if x then Config.freeSda 2 else Config.freeSda 3, ?_⟩
  simp [conditions, lineSteps, lineStepsFrom, LineStep.condition, openEvents, pinsAfter, drawsAfter, sdaLevel,
    Pins.unowned, Pins.driven, Pins.setLatch, Pins.setDir, Pins.handOver, redirectLatch, nextSample, h1, h2]
  cases x <;> cases y <;> simp [conditionAt]
  all_goals cases Config.freeSda 2 <;> simp

/-- CLOSE makes no condition, from any pins (R116). -/
theorem conditions_close (r : Redirect) (p : Pins) (n : Nat) (c d : PinNum) (ok ok' : Bool) :
    conditions r p n [.unexported ⟨.scl, c⟩ ok, .unexported ⟨.sda, d⟩ ok'] = [] := by
  simp [conditions, lineSteps, lineStepsFrom, pinsAfter, LineStep.condition, driven_release, conditionAt]

/-- After CLOSE the block drives neither line, so a later OPEN starts from levels that are the environment's (R116). -/
theorem driven_after_close (r : Redirect) (p : Pins) (n : Nat) (c d : PinNum) (ok ok' : Bool) (l : Line) :
    (pinsAfter r (pinsAfter r p n (.unexported ⟨.scl, c⟩ ok)) (n + 1) (.unexported ⟨.sda, d⟩ ok')).driven l = none := by
  cases l <;> simp [pinsAfter, driven_release]

end Sys2Proof.Machine
end

