-- ==== Sys2Proof/Laws/PerInstr.lean ====
section
/-! SUPPORT. Per-instruction statements: the operation code each command's word carries in bits 31:28 (R53, R57). -/

namespace Sys2Proof.Laws.OpField

open Sys2Proof

/-- OP of each command (R57). -/
def opcode (i : Instr) : BitVec 4 :=
  match i with
  | .start => 0x1
  | .restart => 0x1
  | .stop => 0x2
  | .send _ => 0x3
  | .recv => 0x4
  | .ack => 0x5
  | .setaddr _ => 0x6
  | .accessW _ _ _ => 0x7
  | .accessR _ _ _ => 0x7
  | .openBus => 0x8
  | .closeBus => 0x9

/-- The word of the command carries its operation code. -/
def Statement (i : Instr) : Prop := opField (encode i) = opcode i

/-- The field above two others. -/
theorem extract_top2 {n a b : Nat} (op : BitVec n) (x : BitVec a) (y : BitVec b) :
    (op ++ x ++ y).extractLsb' (a + b) n = op := by
  ext i hi
  simp [BitVec.getLsbD_append, hi, show ¬ a + b + i < b by omega, show ¬ a + b + i - b < a by omega,
    show a + b + i - b - a = i by omega]

/-- The field above six others. -/
theorem extract_top6 {n a b c d e f : Nat} (op : BitVec n) (x : BitVec a) (y : BitVec b) (z : BitVec c) (u : BitVec d)
    (v : BitVec e) (w : BitVec f) :
    (op ++ x ++ y ++ z ++ u ++ v ++ w).extractLsb' (a + b + c + d + e + f) n = op := by
  ext i hi
  rw [BitVec.getElem_extractLsb']
  simp only [BitVec.getLsbD_append]
  simp (disch := omega) only [if_neg, show a + b + c + d + e + f + i - f - e - d - c - b - a = i by omega]
  exact BitVec.getLsbD_eq_getElem hi

theorem start : Statement .start := by unfold Statement; decide
theorem restart : Statement .restart := by unfold Statement; decide
theorem stop : Statement .stop := by unfold Statement; decide
theorem send (b : BitVec 8) : Statement (.send b) := by
  exact extract_top2 0x3#4 0#20 b
theorem recv : Statement .recv := by unfold Statement; decide
theorem ack : Statement .ack := by unfold Statement; decide
theorem setaddr (a7 : BitVec 7) : Statement (.setaddr a7) := by
  exact extract_top2 0x6#4 0#21 a7
theorem accessW (size : SizeClass) (len cmdb : BitVec 8) : Statement (.accessW size len cmdb) := by
  exact extract_top6 0x7#4 0#1 0#1 (sizeField size) len 0#8 cmdb
theorem accessR (size : SizeClass) (len cmdb : BitVec 8) : Statement (.accessR size len cmdb) := by
  exact extract_top6 0x7#4 1#1 0#1 (sizeField size) len 0#8 cmdb
theorem openBus : Statement .openBus := by unfold Statement; decide
theorem closeBus : Statement .closeBus := by unfold Statement; decide

end Sys2Proof.Laws.OpField
end

