-- ==== Sys2Proof/Laws/Procedures.lean ====
section
/-! SUPPORT. What each procedure of 40_engine.md does when it runs, said once: the pins, local variables, trace and
environment it leaves (R66 to R71), and what a run of `Send`s or `Recv`s does inside an ACCESS (R81 to R83). -/

namespace Sys2Proof.Machine

/-- A state with the parts the engine's pin operations work on replaced. -/
def withParts (s : State) (p : Pins) (d : Memory) (l : Locals) (t : List PinEvent) (e : Env) : State :=
  { s with pins := p, data := d, loc := l, trace := t, env := e }

section
variable (s : State) (p : Pins) (d : Memory) (l : Locals) (t : List PinEvent) (e : Env)

@[simp] theorem withParts_pins : (withParts s p d l t e).pins = p := rfl
@[simp] theorem withParts_data : (withParts s p d l t e).data = d := rfl
@[simp] theorem withParts_loc : (withParts s p d l t e).loc = l := rfl
@[simp] theorem withParts_trace : (withParts s p d l t e).trace = t := rfl
@[simp] theorem withParts_env : (withParts s p d l t e).env = e := rfl

@[simp] theorem withParts_withParts (p' : Pins) (d' : Memory) (l' : Locals) (t' : List PinEvent) (e' : Env) :
    withParts (withParts s p d l t e) p' d' l' t' e' = withParts s p' d' l' t' e' := rfl
end

/-- The wires of two pin numbers. -/
def wiresOf (c d : PinNum) : Wires := ⟨⟨.scl, c⟩, ⟨.sda, d⟩⟩

theorem activeWires_eq (s : State) : activeWires s = wiresOf s.actScl s.actSda := rfl

/-- The pins after a `Send` (R69, R30). -/
def pinsAfterSend (p : Pins) (b : Byte) : Pins :=
  { p with sclLat := false, sdaDir := .out, sdaLat := redirectLatch Config.sdaOutOnRedirect (b.getLsbD 0) }

/-- The pins after a `Recv` (R70, R30). -/
def pinsAfterRecv (p : Pins) : Pins :=
  { p with sclLat := false, sdaDir := .out, sdaLat := redirectLatch Config.sdaOutOnRedirect p.sdaLat }

section
variable (c d : PinNum) (s : State)

/-- `Start` (R66). -/
theorem runBody_start (h : s.loc.abort = false) :
    runBody (startOps (wiresOf c d)) s =
      withParts s { s.pins with sclLat := false, sdaLat := false } s.data s.loc
        (s.trace ++ startEvents (wiresOf c d)) s.env := by
  simp [startOps, wiresOf, runBody, doOp, pinSet, emit, Pins.setLatch, h, startEvents, withParts]

/-- `Restart` (R67). -/
theorem runBody_restart (h : s.loc.abort = false) :
    runBody (restartOps (wiresOf c d)) s =
      withParts s { s.pins with sclLat := false, sdaLat := false } s.data s.loc
        (s.trace ++ restartEvents (wiresOf c d)) s.env := by
  simp [restartOps, wiresOf, runBody, doOp, pinSet, emit, Pins.setLatch, h, restartEvents, withParts]

/-- `Ack` (R71). -/
theorem runBody_ack (h : s.loc.abort = false) :
    runBody (ackOps (wiresOf c d)) s =
      withParts s { s.pins with sclLat := false, sdaLat := true } s.data s.loc
        (s.trace ++ ackEvents (wiresOf c d)) s.env := by
  simp [ackOps, wiresOf, runBody, doOp, pinSet, emit, Pins.setLatch, h, ackEvents, withParts]

/-- `Stop`, as a command's body (R68). -/
theorem runBody_stop (h : s.loc.abort = false) :
    runBody (stopOps (wiresOf c d)) s =
      withParts s { s.pins with sclLat := true, sdaLat := true } s.data s.loc
        (s.trace ++ stopEvents (wiresOf c d)) s.env := by
  simp [stopOps, wiresOf, runBody, doOp, pinSet, emit, Pins.setLatch, h, stopEvents, withParts]

/-- `Stop`, as the tail every ACCESS ends with (R81). -/
theorem runTail_stop :
    runTail (stopOps (wiresOf c d)) s =
      withParts s { s.pins with sclLat := true, sdaLat := true } s.data s.loc
        (s.trace ++ stopEvents (wiresOf c d)) s.env := by
  simp [stopOps, wiresOf, runTail, doOp, pinSet, emit, Pins.setLatch, stopEvents, withParts]

/-- `Send(b)` (R69): 29 events, with the environment's next answer as the sampled bit. -/
theorem runBody_send (b : Byte) (role : SendRole) (h : s.loc.abort = false) :
    runBody (sendOps (wiresOf c d) b role) s =
      withParts s (pinsAfterSend s.pins b) s.data
        (Locals.afterSend { s.loc with ack := some s.env.next.1 } role)
        (s.trace ++ sendEvents (wiresOf c d) b s.env.next.1) s.env.next.2 := by
  simp [withParts, pinsAfterSend, h, sendOps, wiresOf, sendBitOps, wireBits, ackWindowOps, runBody, doOp, pinSet, pinDir,
    pinGet, sampleLine, draw, Pins.driven, setLoc, Pins.setDir, emit, Pins.setLatch, sendEvents, wireOrder]

/-- The accumulation of R70 gives the byte of the sampled bits. -/
theorem shift_accumulates : ∀ b7 b6 b5 b4 b3 b2 b1 b0 : Bool,
    BitVec.setWidth 8 (BitVec.ofBool b7) <<< 7 ||| BitVec.setWidth 8 (BitVec.ofBool b6) <<< 6 |||
      BitVec.setWidth 8 (BitVec.ofBool b5) <<< 5 ||| BitVec.setWidth 8 (BitVec.ofBool b4) <<< 4 |||
      BitVec.setWidth 8 (BitVec.ofBool b3) <<< 3 ||| BitVec.setWidth 8 (BitVec.ofBool b2) <<< 2 |||
      BitVec.setWidth 8 (BitVec.ofBool b1) <<< 1 ||| BitVec.setWidth 8 (BitVec.ofBool b0) =
    byteOfWire [b7, b6, b5, b4, b3, b2, b1, b0] := by decide

/-- `Recv` (R70): 26 events, with the environment's next eight answers as the sampled bits. -/
theorem runBody_recv (dst : Option (BitVec 8)) (h : s.loc.abort = false) :
    runBody (recvOps (wiresOf c d) dst) s =
      withParts s (pinsAfterRecv s.pins)
        (match dst with
          | none => s.data
          | some i => memWrite s.data i.toNat (byteOfWire (envTake 8 s.env).1))
        { s.loc with
          shift := byteOfWire (envTake 8 s.env).1
          rx := some (byteOfWire (envTake 8 s.env).1)
          count := match dst with
            | none => s.loc.count
            | some _ => s.loc.count + 1 }
        (s.trace ++ recvEvents (wiresOf c d) (envTake 8 s.env).1) (envTake 8 s.env).2 := by
  cases dst <;>
    simp [withParts, pinsAfterRecv, storeRecv, h, recvOps, wiresOf, recvBitOps, wireBits, runBody, doOp, pinSet, pinDir,
      pinGet, sampleLine, draw, Pins.driven, setLoc, Pins.setDir, emit, Pins.setLatch, recvEvents, envTake,
      Locals.shiftIn, shift_accumulates]
end

-- ## The bus environment's answers

theorem envTake_add (m n : Nat) (e : Env) :
    envTake (m + n) e =
      ((envTake m e).1 ++ (envTake n (envTake m e).2).1, (envTake n (envTake m e).2).2) := by
  induction m generalizing e with
  | zero => simp [envTake]
  | succ m ih => rw [Nat.succ_add]; simp [envTake, ih]

@[simp] theorem envTake_length (n : Nat) (e : Env) : (envTake n e).1.length = n := by
  induction n generalizing e with
  | zero => rfl
  | succ n ih => simp [envTake, ih]

theorem byteOfWire_wireOrder : ∀ b : Byte, byteOfWire (wireOrder b) = b := by decide

@[simp] theorem wireOrder_length (b : Byte) : (wireOrder b).length = 8 := rfl

-- ## Runs of Sends and Recvs

/-- The operations of a run of `Send`s. -/
def sendAllOps (w : Wires) (l : List (Byte × SendRole)) : List PinOp := l.flatMap (fun x => sendOps w x.1 x.2)

/-- The events of a run of acknowledged `Send`s. -/
def sendAllEvents (w : Wires) (l : List (Byte × SendRole)) : List PinEvent := l.flatMap (fun x => sendEvents w x.1 false)

/-- The payload bytes in a run of `Send`s. -/
def dataSends (l : List (Byte × SendRole)) : Nat := l.countP (fun x => x.2 = .data)

theorem sendOps_ne_nil (w : Wires) (b : Byte) (r : SendRole) : sendOps w b r ≠ [] := by
  simp [sendOps, ackWindowOps]

theorem sendAllEvents_eq (w : Wires) (l : List (Byte × SendRole)) :
    sendAllEvents w l = (l.map Prod.fst).flatMap (fun b => sendEvents w b false) := by
  simp [sendAllEvents, List.flatMap_map]

theorem SendRole.aborts_of_ne_host {r : SendRole} (h : r ≠ .host) : r.aborts = true := by
  cases r <;> simp_all [SendRole.aborts]

/-- A run of `Send`s that are all acknowledged (R81, R82). -/
theorem runBody_sends_acked (c d : PinNum) (l : List (Byte × SendRole)) (s : State) (h : s.loc.abort = false)
    (he : (envTake l.length s.env).1 = List.replicate l.length false) :
    ∃ p, runBody (sendAllOps (wiresOf c d) l) s =
        withParts s p s.data
          { s.loc with
            ack := if l = [] then s.loc.ack else some false
            count := s.loc.count + BitVec.ofNat 8 (dataSends l) }
          (s.trace ++ sendAllEvents (wiresOf c d) l) (envTake l.length s.env).2 ∧
      p.sclDir = s.pins.sclDir ∧ (l = [] → p = s.pins) ∧ (l ≠ [] → p.sdaDir = .out) := by
  induction l generalizing s with
  | nil => exact ⟨s.pins, by simp [sendAllOps, runBody, sendAllEvents, envTake, dataSends, withParts]⟩
  | cons x l ih =>
    obtain ⟨b, r⟩ := x
    simp only [List.length_cons, envTake, List.replicate_succ, List.cons.injEq] at he
    obtain ⟨he1, he2⟩ := he
    have hs := runBody_send c d s b r h
    have hab : (Locals.afterSend { s.loc with ack := some s.env.next.1 } r).abort = false := by
      rw [he1]; simp only [Locals.afterSend]; simp; split <;> exact h
    obtain ⟨p, h1, h2, h3, h4⟩ := ih (runBody (sendOps (wiresOf c d) b r) s) (by rw [hs]; exact hab)
      (by rw [hs]; exact he2)
    refine ⟨p, ?_, by rw [h2, hs]; rfl, by simp, fun _ => ?_⟩
    · have hcons : sendAllOps (wiresOf c d) ((b, r) :: l) =
          sendOps (wiresOf c d) b r ++ sendAllOps (wiresOf c d) l := by simp [sendAllOps]
      rw [hcons, runBody_append, if_neg (by rw [hs]; simp [hab]), h1, hs]
      simp only [withParts_withParts, withParts_data, withParts_loc, withParts_trace, withParts_env, envTake,
        List.length_cons, sendAllEvents, List.flatMap_cons, Locals.afterSend, he1, dataSends, List.countP_cons]
      simp
      cases r <;> simp [BitVec.ofNat_add, BitVec.add_assoc, BitVec.add_comm 1#8]
    · by_cases hl : l = []
      · rw [h3 hl, hs]; rfl
      · exact h4 hl

/-- A run of `Send`s whose first nack is that of `b`: nothing after it runs (R81). -/
theorem runBody_sends_nacked (c d : PinNum) (l : List (Byte × SendRole)) (b : Byte) (r : SendRole) (rest : List PinOp)
    (hr : r ≠ .host) (s : State) (h : s.loc.abort = false)
    (he : (envTake (l.length + 1) s.env).1 = List.replicate l.length false ++ [true]) :
    ∃ p, runBody (sendAllOps (wiresOf c d) l ++ (sendOps (wiresOf c d) b r ++ rest)) s =
        withParts s p s.data
          { s.loc with
            ack := some true
            count := s.loc.count + BitVec.ofNat 8 (dataSends l)
            abort := true
            phase := r.failPhase }
          (s.trace ++ sendAllEvents (wiresOf c d) l ++ sendEvents (wiresOf c d) b true)
          (envTake (l.length + 1) s.env).2 ∧
      p.sclDir = s.pins.sclDir ∧ p.sdaDir = .out := by
  rw [envTake_add] at he
  obtain ⟨e1, e2⟩ := List.append_inj he (by simp)
  obtain ⟨p, h1, h2, _, _⟩ := runBody_sends_acked c d l s h e1
  have e3 : (envTake l.length s.env).2.next.1 = true := by simpa [envTake] using e2
  have e5 : (envTake (l.length + 1) s.env).2 = (envTake l.length s.env).2.next.2 := by rw [envTake_add]; rfl
  refine ⟨pinsAfterSend p b, ?_, h2, rfl⟩
  rw [runBody_append, h1, if_neg (by simp [h]), runBody_append, runBody_send _ _ _ _ _ (by exact h), if_pos]
  · simp [Locals.afterSend, SendRole.aborts_of_ne_host hr, e3, e5]
  · exact ⟨sendOps_ne_nil _ _ _, by simp [Locals.afterSend, SendRole.aborts_of_ne_host hr, e3]⟩

/-- The data phase of ACCESS.R (R83): the bytes the environment's answers give are stored from index `i` on. -/
theorem runBody_reads (c d : PinNum) (bytes : List Byte) (i : Nat) (s : State) (hi : i + bytes.length ≤ 256)
    (h : s.loc.abort = false) (he : (envTake (8 * bytes.length) s.env).1 = bytes.flatMap wireOrder) :
    ∃ p sh, runBody (readBytesOps (wiresOf c d) i bytes.length) s =
        withParts s p (storeBytes s.data i bytes)
          { s.loc with
            shift := sh
            rx := if bytes = [] then s.loc.rx else bytes.getLast?
            count := s.loc.count + BitVec.ofNat 8 bytes.length }
          (s.trace ++ readEvents (wiresOf c d) bytes) (envTake (8 * bytes.length) s.env).2 ∧
      p.sclDir = s.pins.sclDir ∧ (bytes = [] → p = s.pins) ∧ (bytes ≠ [] → p.sdaDir = .out) := by
  induction bytes generalizing i s with
  | nil => exact ⟨s.pins, s.loc.shift, by simp [readBytesOps, runBody, readEvents, envTake, storeBytes, withParts]⟩
  | cons b bytes ih =>
    have e8 : 8 * (b :: bytes).length = 8 + 8 * bytes.length := by simp; omega
    rw [e8, envTake_add] at he
    simp only [List.flatMap_cons] at he
    obtain ⟨e1, e2⟩ := List.append_inj he (by simp)
    have hr := fun dst => runBody_recv c d s dst h
    have hi8 : (BitVec.ofNat 8 i).toNat = i := by simp at hi ⊢; omega
    cases bytes with
    | nil =>
      refine ⟨pinsAfterRecv s.pins, b, ?_, rfl, by simp, fun _ => rfl⟩
      simp only [List.length_cons, List.length_nil, readBytesOps, hr, hi8]
      simp [e1, byteOfWire_wireOrder, readEvents, storeBytes]
    | cons b' bs =>
      have hr2 : (runBody (recvOps (wiresOf c d) (some (BitVec.ofNat 8 i))) s).loc.abort = false := by rw [hr]; exact h
      have ha := runBody_ack c d _ hr2
      obtain ⟨p, sh, q1, q2, _, q4⟩ := ih (i + 1)
        (runBody (ackOps (wiresOf c d)) (runBody (recvOps (wiresOf c d) (some (BitVec.ofNat 8 i))) s))
        (by simp at hi ⊢; omega) (by rw [ha, hr]; exact h) (by rw [ha, hr]; exact e2)
      refine ⟨p, sh, ?_, by rw [q2, ha, hr]; rfl, by simp, fun _ => q4 (by simp)⟩
      have hl : (b :: b' :: bs).length = bs.length + 2 := rfl
      rw [show (b' :: bs).length = bs.length + 1 from rfl] at q1
      rw [hl, readBytesOps, List.append_assoc, runBody_append, if_neg (by simp [hr2]), runBody_append,
        if_neg (by rw [ha, hr]; simp [h]), q1, ha, hr]
      have e9 : 8 * (bs.length + 2) = 8 + 8 * (bs.length + 1) := by omega
      rw [e9, envTake_add]
      have h2 : ∀ y : BitVec 8, 1#8 + (y + 1#8) = y + 2#8 := by intro y; bv_omega
      simp [e1, byteOfWire_wireOrder, hi8, readEvents, storeBytes, BitVec.ofNat_add, BitVec.add_assoc, h2]

end Sys2Proof.Machine
end

