-- ==== Sys2Proof/Laws/Step.lean ====
section
/-! SUPPORT. What a completion step, a host access and a step of the machine can do, each said once. -/

namespace Sys2Proof.Machine

/-- The meaning of a command is its plan, run (R17). -/
theorem exec_eq (i : Instr) (s : State) : exec i s = .next (runPlan (planOf i s) s) := by cases i <;> rfl

/-- What the completion step leaves alone, whichever it is (R17). -/
theorem commit_keeps (fin : Completion) (s : State) :
    (commit fin s).trace = s.trace ∧ (commit fin s).data = s.data ∧ (commit fin s).env = s.env ∧
    (commit fin s).cfgScl = s.cfgScl ∧ (commit fin s).cfgSda = s.cfgSda ∧ (commit fin s).cur = s.cur ∧
    (commit fin s).host = s.host ∧ (commit fin s).reads = s.reads ∧ (commit fin s).readDraws = s.readDraws ∧
    (commit fin s).faulted = s.faulted := by
  cases fin with
  | opened c d => simp only [commit, commitOpen]; split <;> simp
  | _ => simp [commit, commitLocals, commitAccess, commitClose]

/-- The engine running on is the rest of the plan in flight, run to its completion step (R17). -/
theorem runToCompletion_eq (s : State) :
    runToCompletion s = .next (match s.seq with
      | .idle => s
      | .start => runPlan (planCur s) s
      | .running body tail fin => finish body tail fin s) := by
  simp only [runToCompletion]
  cases s.seq with
  | idle => rfl
  | start => simp only [planCur]; cases decode s.cur <;> simp [exec_eq]
  | running body tail fin => rfl

/-- What a host write can do: nothing, a fault mark, or a store into the decoded window while BUSY = 0. -/
theorem hostWrite_cases (off bytes : Nat) (v : Word) (s : State) :
    hostWrite off bytes v s = s ∨ (∃ r, hostWrite off bytes v s = markFault r s) ∨
    (s.busy = false ∧ off < 0x200 ∧ off % 4 = 0 ∧ hostWrite off bytes v s = storeWord off v s) := by
  unfold hostWrite
  split
  · exact .inl rfl
  · split
    · exact .inr (.inl ⟨_, rfl⟩)
    · split
      · exact .inr (.inl ⟨_, rfl⟩)
      · split
        · exact .inr (.inl ⟨_, rfl⟩)
        · rename_i h1 h2 h3 h4
          simp only [outsideWindow, decide_eq_true_eq, badAccess, Bool.or_eq_true, bne_iff_ne] at h1 h3
          exact .inr (.inr ⟨by simpa using h2, by omega, by omega, rfl⟩)

/-- What a store into the window can do: a DATA word, a command, PINCFG, or nothing (R19, R21, R26, R44). -/
theorem storeWord_cases (off : Nat) (v : Word) (s : State) :
    (0x100 ≤ off ∧ storeWord off v s = { s with data := setDataWord s.data (off - 0x100) v }) ∨
    storeWord off v s = acceptCommand v s ∨
    storeWord off v s = { s with cfgScl := v.extractLsb' 0 16, cfgSda := v.extractLsb' 16 16 } ∨
    storeWord off v s = s := by
  unfold storeWord
  split
  · rename_i h; exact .inl ⟨h, rfl⟩
  · split
    · exact .inr (.inl rfl)
    · split
      · exact .inr (.inr (.inl rfl))
      · exact .inr (.inr (.inr rfl))

/-- What a host read can do: return a value, return a free word, or mark a fault (R27, R88). -/
theorem hostRead_cases (off bytes : Nat) (s : State) :
    (∃ v, hostRead off bytes s = returnRead v s) ∨ hostRead off bytes s = returnFree s ∨
    (∃ r, hostRead off bytes s = markFault r s) := by
  unfold hostRead readWord
  repeat' split
  all_goals first
    | exact .inr (.inl rfl)
    | exact .inr (.inr ⟨_, rfl⟩)
    | exact .inl ⟨_, rfl⟩

/-- What a guarded read can do: as a read, or nothing (R61). -/
theorem hostReadIfOk_cases (off : Nat) (s : State) :
    hostReadIfOk off s = s ∨ hostReadIfOk off s = hostRead off 4 s := by
  unfold hostReadIfOk
  repeat' split
  all_goals first
    | exact .inl rfl
    | exact .inr rfl

/-- Everything a step that gives a next state can do. -/
theorem step_cases {s t : State} (h : step s = .next t) :
    (s.busy = false ∧ s.faulted = none ∧ s.host = [] ∧ t = s) ∨
    (s.busy = true ∧ runToCompletion s = .next t) ∨
    (s.faulted = none ∧ ∃ a rest, s.host = a :: rest ∧
      ((∃ off bytes v, a = .write off bytes v ∧ t = hostWrite off bytes v (popHost s)) ∨
       (∃ off bytes, a = .read off bytes ∧ t = hostRead off bytes (popHost s)) ∨
       (∃ off, a = .readIfOk off ∧ t = hostReadIfOk off (popHost s)) ∨
       (a = .wait ∧ s.busy = false ∧ t = returnRead (statusWord s) (popHost s)) ∨
       (a = .tick ∧ t = engineStep (popHost s)) ∨
       (a = .reset ∧ t = resetAction (popHost s)))) := by
  simp only [step, machineStep] at h
  split at h
  · rename_i hf
    simp only [turn] at h
    split at h
    · rename_i hh
      split at h
      · rename_i hb; exact .inr (.inl ⟨hb, h⟩)
      · rename_i hb; cases h; exact .inl ⟨by simpa using hb, hf, hh, rfl⟩
    · rename_i a rest hh
      cases a with
      | write off bytes v => cases h; exact .inr (.inr ⟨hf, _, rest, hh, .inl ⟨_, _, _, rfl, rfl⟩⟩)
      | read off bytes => cases h; exact .inr (.inr ⟨hf, _, rest, hh, .inr (.inl ⟨_, _, rfl, rfl⟩)⟩)
      | readIfOk off => cases h; exact .inr (.inr ⟨hf, _, rest, hh, .inr (.inr (.inl ⟨_, rfl, rfl⟩))⟩)
      | wait =>
        simp only [hostTurn, waitTurn] at h
        split at h
        · rename_i hb; exact .inr (.inl ⟨hb, h⟩)
        · rename_i hb
          cases h
          exact .inr (.inr ⟨hf, _, rest, hh, .inr (.inr (.inr (.inl ⟨rfl, by simpa using hb, rfl⟩)))⟩)
      | tick => cases h; exact .inr (.inr ⟨hf, _, rest, hh, .inr (.inr (.inr (.inr (.inl ⟨rfl, rfl⟩))))⟩)
      | reset => cases h; exact .inr (.inr ⟨hf, _, rest, hh, .inr (.inr (.inr (.inr (.inr ⟨rfl, rfl⟩))))⟩)
  · split at h
    · rename_i hb; exact .inr (.inl ⟨hb, h⟩)
    · cases h

end Sys2Proof.Machine
end

