-- ==== Sys2Proof/Machine/Descriptor.lean ====
section
/-! DEFINITION. The host's mapping of a software-bus descriptor onto PINCFG (R76). Host-side; a device-node path and any
other string give none, and the host then touches no register. -/

namespace Sys2Proof.Machine

/-- A letter in upper case; every other character as it is (the descriptor is compared case-insensitively, R76). -/
def upperChar (c : Char) : Char := if 97 ≤ c.toNat ∧ c.toNat ≤ 122 then Char.ofNat (c.toNat - 32) else c

/-- Split at commas. -/
def commaFields (w : List Char) (cs : List Char) : List (List Char) :=
  match cs with
  | [] => [w]
  | c :: rest => if c = ',' then w :: commaFields [] rest else commaFields (w ++ [c]) rest

/-- A decimal pin number that fits PINCFG (R76). -/
def pinNumber (cs : List Char) : Option PinNum :=
  match cs with
  | [] => none
  | d :: ds =>
    match digitsFrom 10 0 (d :: ds) with
    | some n => if n ≤ 65535 then some (BitVec.ofNat 16 n) else none
    | none => none

/-- `PINCFG <- (sda << 16) | scl` (R76). -/
def pincfgOf (scl sda : Option PinNum) : Option Word :=
  match scl, sda with
  | some p, some q => some (q ++ p)
  | _, _ => none

/-- The PINCFG word of `GPIO,SCL,<p>,SDA,<q>` or `GPIO,SDA,<q>,SCL,<p>`; none for any other descriptor (R76). -/
def descriptorPincfg (cs : List Char) : Option Word :=
  match commaFields [] (cs.map upperChar) with
  | [tag, r1, n1, r2, n2] =>
    if tag = ['G', 'P', 'I', 'O'] ∧ r1 = ['S', 'C', 'L'] ∧ r2 = ['S', 'D', 'A'] then
      pincfgOf (pinNumber n1) (pinNumber n2)
    else if tag = ['G', 'P', 'I', 'O'] ∧ r1 = ['S', 'D', 'A'] ∧ r2 = ['S', 'C', 'L'] then
      pincfgOf (pinNumber n2) (pinNumber n1)
    else none
  | _ => none

end Sys2Proof.Machine
end

