-- ==== Sys2Proof/Tests/Slice0.lean ====
section
/-! SUPPORT. Tests of single steps, their expected values taken from spec/95_test_vectors.md or worked out by hand from the
rule named, and one witness for each statement that has hypotheses. -/

namespace Sys2Proof.Tests

open Sys2Proof Sys2Proof.Machine Sys2Proof.Claims

-- ## Small states and what is looked at

/-- S0 of 95_test_vectors.md section 0: SCL on pin 18, SDA on pin 23, the bus open and idle. -/
def s0 : State :=
  { State.reset with
    isOpen := true, cfgScl := 18, cfgSda := 23, actScl := 18, actSda := 23
    pins := { sclLat := true, sclDir := .out, sdaLat := true, sdaDir := .out } }

/-- S0 after `SETADDR 0x50`. -/
def s50 : State := { s0 with saddr := 0xA0 }

/-- Reset, then PINCFG set to pins 18 and 23. -/
def configured : State := { State.reset with cfgScl := 18, cfgSda := 23 }

/-- The bus environment's next answers. -/
def answering (l : List Bool) (s : State) : State := { s with env := { answers := l, draws := 0 } }

/-- The host's next accesses. -/
def hosted (l : List HostAction) (s : State) : State := { s with host := l }

/-- A command word accepted and not yet begun. -/
def busyWith (w : Word) (s : State) : State := acceptCommand w s

/-- DATA with these bytes from index 0. -/
def holding (l : List Byte) (s : State) : State := { s with data := storeBytes [] 0 l }

/-- A marked state. -/
def marked (r : Fault) (s : State) : State := { s with faulted := some r }

/-- What a next state is looked at with. -/
def look {α : Type} (f : State → α) (o : Host.Outcome State Fault Refusal) : Option α :=
  match o with
  | .next t => some (f t)
  | .fault _ => none
  | .refused _ => none

/-- The fault an outcome is. -/
def faultOf (o : Host.Outcome State Fault Refusal) : Option Fault :=
  match o with
  | .next _ => none
  | .fault r => some r
  | .refused _ => none

/-- A run of a few steps, for a host script. -/
def stepsFrom (n : Nat) (s : State) : Host.Outcome State Fault Refusal := Sys2Proof.core.run n s

/-- The SCL pin of S0. -/
def scl : Pin := ⟨.scl, 18⟩

/-- The SDA pin of S0. -/
def sda : Pin := ⟨.sda, 23⟩

/-- The pins of S0. -/
def wires : Wires := ⟨scl, sda⟩

/-- The level a recorded sample shows, for checking a trace's samples alone. -/
def samples (l : List PinEvent) : List Level :=
  l.filterMap (fun e => match e with
    | .sample _ b => some b
    | .exported _ _ => none
    | .unexported _ _ => none
    | .dir _ _ => none
    | .level _ _ => none)

/-- The error a word decodes to; none for a command. -/
def errorOf (w : Word) : Option DecodeError :=
  match decode w with
  | .ok _ => none
  | .error e => some e

-- ## Well-formed lines: an ill-formed line for each check (R60)

theorem test_wf_send_refused : (AsmLine.send 256).wellFormed = false := by decide
theorem test_wf_setaddr_refused : (AsmLine.setaddr 128).wellFormed = false := by decide
theorem test_wf_write_command_refused : (AsmLine.accessW 256 .byte 0).wellFormed = false := by decide
theorem test_wf_read_command_refused : (AsmLine.accessR 256 .byte 0).wellFormed = false := by decide
theorem test_wf_block_length_refused : (AsmLine.accessW 0 .block 256).wellFormed = false := by decide
theorem test_wf_read_block_length_refused : (AsmLine.accessR 0 .block 256).wellFormed = false := by decide
theorem test_wf_quick_length_refused : (AsmLine.accessW 0 .quick 1).wellFormed = false := by decide
theorem test_wf_byte_length_refused : (AsmLine.accessW 0 .byte 1).wellFormed = false := by decide
theorem test_wf_word_length_refused : (AsmLine.accessR 0 .word 1).wellFormed = false := by decide
theorem test_wf_limits_accepted : (AsmLine.send 255).wellFormed = true ∧ (AsmLine.setaddr 127).wellFormed = true ∧
    (AsmLine.accessW 255 .block 255).wellFormed = true ∧ (AsmLine.accessR 255 .quick 0).wellFormed = true := by decide
theorem test_wf_no_operands : AsmLine.start.wellFormed = true ∧ AsmLine.restart.wellFormed = true ∧
    AsmLine.stop.wellFormed = true ∧ AsmLine.recv.wellFormed = true ∧ AsmLine.ack.wellFormed = true ∧
    AsmLine.openBus.wellFormed = true ∧ AsmLine.closeBus.wellFormed = true := by decide

-- ## Decoding: words written out bit by bit from the formats of R54

/-- Format S, R = 0. -/
theorem test_decode_start : decode 0b0001_000000000000000000000000000_0#32 = .ok .start := rfl
/-- Format S, R = 1. -/
theorem test_decode_restart : decode 0b0001_000000000000000000000000000_1#32 = .ok .restart := rfl
/-- Format N. -/
theorem test_decode_stop : decode 0b0010_0000000000000000000000000000#32 = .ok .stop := rfl
/-- Format B, BYTE = 0xA5. -/
theorem test_decode_send : decode 0b0011_00000000000000000000_10100101#32 = .ok (.send 0xA5) := rfl
/-- Format N. -/
theorem test_decode_recv : decode 0b0100_0000000000000000000000000000#32 = .ok .recv := rfl
/-- Format N. -/
theorem test_decode_ack : decode 0b0101_0000000000000000000000000000#32 = .ok .ack := rfl
/-- Format A, A7 = 0x51. -/
theorem test_decode_setaddr : decode 0b0110_000000000000000000000_1010001#32 = .ok (.setaddr 0x51) := rfl
/-- Format X, DIR = 0, SIZE = 3, LEN = 0x81, CMDB = 0x2C. -/
theorem test_decode_accessW :
    decode 0b0111_0_0_11_10000001_00000000_00101100#32 = .ok (.accessW .block 0x81 0x2C) := rfl
/-- Format X, DIR = 1, SIZE = 2, LEN = 0, CMDB = 0x2C. -/
theorem test_decode_accessR :
    decode 0b0111_1_0_10_00000000_00000000_00101100#32 = .ok (.accessR .word 0 0x2C) := rfl
/-- Format N. -/
theorem test_decode_open : decode 0b1000_0000000000000000000000000000#32 = .ok .openBus := rfl
/-- Format N. -/
theorem test_decode_close : decode 0b1001_0000000000000000000000000000#32 = .ok .closeBus := rfl

/-- Vectors ENC-1 to ENC-18, as the numbers of the opcode table. -/
theorem test_decode_table :
    decodeTableWord 32 0x10000000 = some .start ∧ decodeTableWord 32 0x10000001 = some .restart ∧
    decodeTableWord 32 0x20000000 = some .stop ∧ decodeTableWord 32 0x300000FF = some (.send 0xFF) ∧
    decodeTableWord 32 0x40000000 = some .recv ∧ decodeTableWord 32 0x50000000 = some .ack ∧
    decodeTableWord 32 0x6000007F = some (.setaddr 0x7F) ∧
    decodeTableWord 32 0x71FF0010 = some (.accessW .byte 0xFF 0x10) ∧
    decodeTableWord 32 0x7BFF0000 = some (.accessR .block 0xFF 0) ∧
    decodeTableWord 32 0x80000000 = some .openBus ∧ decodeTableWord 32 0x90000000 = some .closeBus := by decide

/-- Vectors ENC-19, 30, 31 and 32: the reserved operation codes. -/
theorem test_decode_reserved_op :
    [0x00000000#32, 0xA0000000, 0xF0000000, 0xFFFFFFFF].map errorOf = List.replicate 4 (some .reservedOp) := by decide

/-- Vectors ENC-20 to ENC-29: a bit its format marks 0 is 1. -/
theorem test_decode_reserved_bits :
    [0x10000002#32, 0x1FFFFFFF, 0x20000001, 0x300001A0, 0x40000080, 0x60000080, 0x7C000000, 0x71000110, 0x70008000,
      0x80000001].map errorOf = List.replicate 10 (some .reservedBits) := by decide

-- ## Assembler and descriptor (R60, R76)

/-- Vectors ASM-1, ASM-2 and ASM-6. -/
theorem test_asm_lines :
    assembleText "SEND 0x5A".toList = some 0x3000005A ∧ assembleText "SETADDR 3 ; a comment".toList = some 0x60000003 ∧
    assembleText "ACCESS.W 0xFF, BLOCK, 255".toList = some 0x73FF00FF := by decide

/-- Vectors ASM-4, ASM-5 and ASM-8, and the assembly error of R60. -/
theorem test_asm_access :
    assembleText "ACCESS.W 0x10, QUICK".toList = some 0x70000010 ∧
    assembleText "ACCESS.W 0x10, WORD".toList = some 0x72000010 ∧
    assembleText "ACCESS.R 0x20, BLOCK, 3".toList = some 0x7B030020 ∧
    assembleText "SEND 256".toList = none := by decide

/-- Row L1-1: the descriptor of section 8 of the source gives PINCFG = 0x00170012, in either order and any case. -/
theorem test_descriptor :
    descriptorPincfg "GPIO,SCL,18,SDA,23".toList = some 0x00170012 ∧
    descriptorPincfg "gpio,sda,23,scl,18".toList = some 0x00170012 ∧
    descriptorPincfg "/dev/i2c-1".toList = none := by decide

-- ## Engine commands (95_test_vectors.md section 3)

/-- ENG-1. -/
theorem test_start : look (fun t => (t.trace, statusWord t, linesWord t)) (exec .start s0) =
    some ([.level sda false, .level scl false], 0x00000002, 0x00000002) := by decide

/-- ENG-2: a silent no-op. -/
theorem test_start_unconfigured : look (fun t => (t.trace, statusWord t)) (exec .start State.reset) =
    some ([], 0x00000000) := by decide

/-- ENG-4: SDA rises before SCL. -/
theorem test_restart : look (fun t => (t.trace, statusWord t)) (exec .restart s0) =
    some ([.level sda true, .level scl true, .level sda false, .level scl false], 0x00000002) := by decide

/-- ENG-5. -/
theorem test_restart_unconfigured : look (fun t => (t.trace, statusWord t)) (exec .restart State.reset) =
    some ([], 0x00000000) := by decide

/-- ENG-6. -/
theorem test_stop : look (fun t => (t.trace, linesWord t)) (exec .stop s0) =
    some ([.level scl true, .level sda true], 0x00000007) := by decide

/-- ENG-7. -/
theorem test_stop_unconfigured : look statusWord (exec .stop State.reset) = some 0x00000050 := by decide

/-- ENG-9: the wire order, the window and NACK = 1 without an error. -/
theorem test_send : look (fun t => (t.trace, statusWord t)) (exec (.send 0x01) (answering [true] s0)) =
    some ([.level sda false, .level scl true, .level scl false, .level sda false, .level scl true, .level scl false,
      .level sda false, .level scl true, .level scl false, .level sda false, .level scl true, .level scl false,
      .level sda false, .level scl true, .level scl false, .level sda false, .level scl true, .level scl false,
      .level sda false, .level scl true, .level scl false, .level sda true, .level scl true, .level scl false,
      .level scl true, .dir sda .inp, .sample sda true, .dir sda .out, .level scl false], 0x00000006) := by decide

/-- ENG-11. -/
theorem test_send_unconfigured : look statusWord (exec (.send 0xA0) State.reset) = some 0x00000050 := by decide

/-- ENG-12: the sampled bits 0,1,0,1,1,0,1,0 make 0x5A. -/
theorem test_recv :
    look (fun t => (t.rxbyte, t.trace.length, statusWord t))
      (exec .recv (answering [false, true, false, true, true, false, true, false] s0)) =
    some (0x5A, 26, 0x00000002) := by decide

/-- ENG-16. -/
theorem test_recv_unconfigured : look (fun t => (statusWord t, rxdataWord t)) (exec .recv State.reset) =
    some (0x00000050, 0) := by decide

/-- ENG-14: data low, clock high, clock low, data high. -/
theorem test_ack : look (fun t => (t.trace, statusWord t)) (exec .ack s0) =
    some ([.level sda false, .level scl true, .level scl false, .level sda true], 0x00000002) := by decide

/-- ENG-15. -/
theorem test_ack_unconfigured : look statusWord (exec .ack State.reset) = some 0x00000050 := by decide

-- ## OPEN, CLOSE and SETADDR (95_test_vectors.md section 4)

/-- DSP-1. -/
theorem test_open :
    look (fun t => (t.trace, statusWord t, actpinsWord t, linesWord t)) (exec .openBus (answering [true, true] configured)) =
    some ([.exported scl true, .exported sda true, .dir scl .out, .dir sda .out, .level scl true, .level sda true],
      0x00000002, 0x00170012, 0x00000007) := by decide

/-- DSP-6: no rollback of the first export. -/
theorem test_open_export_fails :
    look (fun t => (t.trace, statusWord t, actpinsWord t)) (exec .openBus (answering [true, false] configured)) =
    some ([.exported scl true, .exported sda false], 0x00000040, 0) := by decide

/-- DSP-9: the second unexport is tried although the first failed. -/
theorem test_close : look (fun t => (t.trace, statusWord t, actpinsWord t, addrWord t))
    (exec .closeBus (answering [false, true] s50)) =
    some ([.unexported scl false, .unexported sda true], 0x00000040, 0, 0) := by decide

/-- DSP-10. -/
theorem test_close_closed : look (fun t => (t.trace, statusWord t)) (exec .closeBus State.reset) = some ([], 0) := by
  decide

/-- DSP-13. -/
theorem test_setaddr : look (fun t => (addrWord t, statusWord t)) (exec (.setaddr 0x7F) s0) =
    some (0x000000FE, 0x00000002) := by decide

/-- DSP-11. -/
theorem test_setaddr_closed : look (fun t => (addrWord t, statusWord t)) (exec (.setaddr 0x50) State.reset) =
    some (0, 0x00000020) := by decide

-- ## ACCESS (95_test_vectors.md section 5)

set_option maxRecDepth 8000 in
/-- ACC-5: the nack on DATA[1] stops the write: 120 events, XCOUNT = 1, NPHASE = 3. -/
theorem test_accessW_nack :
    look (fun t => (samples t.trace, t.trace.length, statusWord t))
      (exec (.accessW .block 3 0x20) (answering [false, false, false, true] (holding [0x11, 0x22, 0x33, 0] s50))) =
    some ([false, false, false, true], 120, 0x00010316) := by decide

/-- ACC-6: an UNSET payload byte is a fault before any event. -/
theorem test_accessW_unset :
    look (fun t => (t.trace, t.faulted, statusWord t)) (exec (.accessW .byte 0 0x10) s50) =
    some ([], some .unsetData, 0x00000002) := by decide

set_option maxRecDepth 8000 in
/-- ACC-10: two bytes into DATA, low index first, 151 events. -/
theorem test_accessR_word :
    look (fun t => (t.data, t.trace.length, statusWord t, rxdataWord t))
      (exec (.accessR .word 0 0x10)
        (answering ([false, false, false] ++ wireOrder 0x34 ++ wireOrder 0x12) s50)) =
    some ([(0, 0x34), (1, 0x12)], 151, 0x00020002, 0x12) := by decide

set_option maxRecDepth 8000 in
/-- ACC-11: a nack on the read address leaves DATA as the host wrote it. -/
theorem test_accessR_nack :
    look (fun t => (t.data, t.trace.length, statusWord t))
      (exec (.accessR .byte 0 0x10) (answering [false, false, true] (holding [0x77, 0, 0, 0] s50))) =
    some ([(0, 0x77), (1, 0), (2, 0), (3, 0)], 95, 0x00000416) := by decide

-- ## The host's window (95_test_vectors.md sections 7 and 8)

/-- ERR-1: the zero word is refused. -/
theorem test_illegal_word : look (fun t => (t.trace, statusWord t)) (step (busyWith 0x00000000 State.reset)) =
    some ([], 0x00000060) := by decide

/-- ERR-5, ERR-6 and RST-8, each in one host read from reset. -/
theorem test_read_faults :
    look State.faulted (step (hosted [.read 0x002 4] State.reset)) = some (some .badWidth) ∧
    look State.faulted (step (hosted [.read 0x020 4] State.reset)) = some (some .reservedOffset) ∧
    look State.faulted (step (hosted [.read 0x100 4] State.reset)) = some (some .unsetRead) := by decide

/-- ERR-8: DATA words are little-endian. -/
theorem test_data_write : look State.data (step (hosted [.write 0x104 4 0x01020304] State.reset)) =
    some [(4, 0x04), (5, 0x03), (6, 0x02), (7, 0x01)] := by decide

/-- ERR-13: a write while busy is a fault, and nothing is stored. -/
theorem test_busy_write :
    look (fun t => (t.faulted, t.data, t.busy)) (step (hosted [.write 0x100 4 0] (busyWith 0x71000010 s50))) =
    some (some .busyWrite, [], true) := by decide

/-- ERR-14: STATUS read while busy. -/
theorem test_busy_status : look State.reads (step (hosted [.read 0x004 4] (busyWith 0x71000010 s50))) =
    some [0x00000003] := by decide

/-- ERR-9 and R46: CMD reads 0 while BUSY = 0, and a free word while BUSY = 1. -/
theorem test_cmd_read : look State.reads (step (hosted [.read 0x000 4] State.reset)) = some [0] ∧
    look State.reads (step (hosted [.read 0x000 4] (busyWith 0x71000010 s50))) = some [Config.freeWord 0] :=
  ⟨by decide, rfl⟩

/-- R105: a marked machine that is not busy has no next state. -/
theorem test_marked_stops : faultOf (step (marked .badWidth s0)) = some .badWidth := by decide

/-- R102: reset during a command keeps the events issued so far. -/
theorem test_reset_mid_command :
    look (fun t => (t.trace, statusWord t))
      (step (hosted [.reset] (busyWith 0x71000010 { s50 with trace := startEvents wires }))) =
    some ([.level sda false, .level scl false], 0) := by decide

/-- R17: two engine steps of START, then its completion step. -/
theorem test_ticks :
    look (fun t => (t.trace, t.busy)) (stepsFrom 2 (hosted [.tick, .tick] (busyWith 0x10000000 s0))) =
      some ([.level sda false, .level scl false], true) ∧
    look (fun t => (t.trace.length, t.busy, t.seq)) (stepsFrom 3 (hosted [.tick, .tick, .tick] (busyWith 0x10000000 s0))) =
      some (2, false, .idle) := by decide

/-- R61: the write of the command, the wait that runs it, and the poll that returns STATUS. -/
theorem test_wait :
    look State.reads (stepsFrom 3 (hosted [.write 0 4 0x60000050, .wait] s0)) = some [0x00000002] := by decide

/-- The placed instruction is the one the next step runs: SETADDR 0x50 from reset gives ERR = 2 (DSP-11). -/
theorem test_withFetchWord : look statusWord (step (State.reset.withFetchWord 32 0x60000050)) = some 0x00000020 := by
  decide

/-- R26, R42: a write to STATUS has no effect and offset 0x200 is not the block's. -/
theorem test_ignored_writes : look (fun t => t = s0) (step (hosted [.write 0x004 4 0xFFFFFFFF] s0)) = some True ∧
    look (fun t => t = s0) (step (hosted [.write 0x200 4 1] s0)) = some True := by
  constructor <;> simp [look, step, machineStep, turn, hosted, s0, State.reset, hostTurn, popHost, hostWrite,
    outsideWindow, badAccess, reservedOffset, storeWord]

/-- PSO-3 and PSO-7: the results of BYTE_READ. -/
theorem test_pseudo :
    pseudoResult (.byteRead 0x10) [0x00010002, 0x000000A5] = 0x000000A5 ∧
    pseudoResult (.byteRead 0x10) [0x00000116] = 0xFFFFFFFF := by decide

-- ## The lines (95_test_vectors.md section 9)

/-- HAZ-8: the acknowledge window of SEND 0xA1 acknowledged, under both values of SDA_OUT_ON_REDIRECT. -/
theorem test_ack_window :
    conditions .latch { s0.pins with sclLat := false, sdaLat := false } 0 (sendEvents wires 0xA1 false) =
      [(26, .start), (28, .stop)] ∧
    conditions .low { s0.pins with sclLat := false, sdaLat := false } 0 (sendEvents wires 0xA1 false) =
      [(26, .start)] := by decide

/-- HAZ-15: ACK on the idle bus puts a start condition at event 1 (R115). -/
theorem test_ack_on_idle : conditions .latch s0.pins 0 (ackEvents wires) = [(1, .start)] := by decide

/-- R117: under LOW, OPEN makes exactly one stop condition, at `L(d,1)`, its sixth event. -/
theorem test_open_low : conditions .low Pins.unowned 0
    [.exported scl true, .exported sda true, .dir scl .out, .dir sda .out, .level scl true, .level sda true] =
    [(6, .stop)] := conditions_open_low 18 23 0

/-- R106: what a reader of the lines sees of START and SEND 0xA0, acknowledged. -/
theorem test_signs_send : busSigns .latch s0.pins 0 (startEvents wires ++ sendEvents wires 0xA0 false) =
    [(1, .start), (4, .bit true), (7, .bit false), (10, .bit true), (13, .bit false), (16, .bit false), (19, .bit false),
      (22, .bit false), (25, .bit false), (27, .ninth .ack)] := by decide

/-- R106, R110: RESTART is a start on the idle bus and a repeated start mid-transaction. -/
theorem test_signs_restart : busSigns .low s0.pins 0 (restartEvents wires) = [(3, .start)] ∧
    busSigns .low { s0.pins with sclLat := false, sdaLat := false } 0 (restartEvents wires) =
      [(2, .bit true), (3, .repeatedStart)] := by decide

/-- R114: the ninth bit of a read's last byte is STOP's clock, a nack under LATCH and an ack with a stop condition under
LOW. -/
theorem test_last_byte_of_a_read :
    (busSigns .latch { s0.pins with sclLat := false } 0 (recvEvents wires (wireOrder 0x5A) ++ stopEvents wires)).drop 8 =
      [(27, .ninth .nack)] ∧
    (busSigns .low { s0.pins with sclLat := false } 0 (recvEvents wires (wireOrder 0x5A) ++ stopEvents wires)).drop 8 =
      [(27, .ninth .ack), (28, .stop)] := by decide

/-- R116: CLOSE makes no condition, and after it the level of SCL is the environment's until OPEN drives the pin again. -/
theorem test_lines_past_close : (lineSteps .low s0.pins 0 ([.unexported scl true, .unexported sda true, .exported scl true,
      .exported sda true, .dir scl .out])).map (fun x => (x.sclBefore, x.sclAfter, x.condition)) =
    [(some true, none, none), (none, none, none), (none, none, none), (none, none, none), (none, some false, none)] := by
  simp [lineSteps, lineStepsFrom, pinsAfter, Pins.release, Pins.handOver, Pins.setDir, Pins.driven, redirectLatch,
    LineStep.condition, conditionAt, s0, State.reset, scl, sda]

/-- R31, R106: the open bus is idle, it is not while SCL is low, and with SDA an input the peer's level decides. -/
theorem test_bus_idle : busIdle s0 = true ∧ busIdle { s0 with pins := { s0.pins with sclLat := false } } = false ∧
    busIdle { s0 with pins := { s0.pins with sdaDir := .inp } } = Config.undrivenSda s0.trace.length :=
  ⟨(busIdle_of_driven (c := true) (d := true) rfl rfl).trans rfl, busIdle_false_of_low (.inl rfl), busIdle_of_input rfl rfl⟩

/-- R117: OPEN drives SCL high from its fifth event on, before its completion step, and LINES still reads 0 (R25). -/
theorem test_lines_in_open :
    look (fun t => (sclLine t, linesWord t, t.busy)) (stepsFrom 5 (hosted (List.replicate 5 .tick)
      (busyWith 0x80000000 (answering [true, true] configured)))) = some (some true, 0, true) := by decide

-- ## Witnesses: states and operands that meet a statement's hypotheses, each clause at a boundary value

theorem reset_inv : Invariant State.reset :=
  ⟨rfl, rfl, ⟨by decide, rfl, fun h => absurd h (by decide), fun _ => rfl⟩⟩

theorem s0_inv : Invariant s0 :=
  ⟨rfl, rfl, ⟨by decide, rfl, fun _ => ⟨rfl, rfl, fun _ => rfl⟩, fun h => absurd h (by decide)⟩⟩

/-- EncodeDecodeRoundTrip. -/
theorem witness_encode_decode : decode 0x73FF00FF = .ok (.accessW .block 0xFF 0xFF) := rfl

/-- DecodeFollowsOpcodeMap, its first two clauses. -/
theorem witness_opcode_map : decode 0x6000007F = .ok (.setaddr 0x7F) ∧
    (⟨"SETADDR", 0x60000000, 0xFFFFFF80⟩ : OpcodeRow) ∈ opcodeMap ∧
    (⟨"SETADDR", 0x60000000, 0xFFFFFF80⟩ : OpcodeRow).admits 0x6000007F = true := ⟨rfl, by decide, by decide⟩

/-- DecodeFollowsOpcodeMap, its third clause. -/
theorem witness_rows :
    ∃ r₁ ∈ opcodeMap, ∃ r₂ ∈ opcodeMap, r₁.admits 0x10000001 = true ∧ r₂.admits 0x10000001 = true := by decide

/-- IllegalWordsAreTheReservedOnes: the operation codes where its two sides change. -/
theorem witness_reserved : opField 0x00000000 = 0 ∧ (opField 0x9FFFFFFF).toNat = 9 ∧ 0xA ≤ (opField 0xA0000000).toNat ∧
    (opField 0x10000002).toNat = 1 ∧ opcodeMap.all (fun r => r.admits 0x10000002 == false) = true := by decide

/-- StepRunsDecodedCommand: the host in WAIT, and the host done. -/
theorem witness_step_runs :
    (busyWith 0x10000000 s0).faulted = none ∧ (busyWith 0x10000000 s0).busy = true ∧
    (busyWith 0x10000000 s0).seq = .start ∧ decode (busyWith 0x10000000 s0).cur = .ok .start ∧
    HostWaits (busyWith 0x10000000 s0) ∧ HostWaits (hosted [.wait] (busyWith 0x10000000 s0)) :=
  ⟨rfl, rfl, rfl, rfl, .inl rfl, .inr ⟨[], rfl⟩⟩

/-- IllegalWordIsRefused. -/
theorem witness_illegal :
    (busyWith 0x10000002 s0).faulted = none ∧ (busyWith 0x10000002 s0).busy = true ∧
    (busyWith 0x10000002 s0).seq = .start ∧ decode (busyWith 0x10000002 s0).cur = .error .reservedBits ∧
    HostWaits (busyWith 0x10000002 s0) := ⟨rfl, rfl, rfl, rfl, .inl rfl⟩

/-- TickIsOneEngineStep. -/
theorem witness_tick : (hosted [.tick] s0).faulted = none ∧ (hosted [.tick] s0).host = .tick :: [] := ⟨rfl, rfl⟩

/-- EngineStepIssuesOneEvent: a step that issues an event, and a completion step. -/
theorem witness_engine_step :
    (busyWith 0x10000000 s0).busy = true ∧ (busyWith 0x10000000 s0).seq ≠ .idle ∧
    (engineStep (busyWith 0x10000000 s0)).busy = true ∧
    (engineStep (busyWith 0x60000050 s0)).busy = false ∧ (busyWith 0x60000050 s0).seq ≠ .idle := by decide

/-- EngineStepsReachExec. -/
theorem witness_engine_steps :
    (busyWith 0x7BFF0000 s50).busy = true ∧ (busyWith 0x7BFF0000 s50).seq = .start ∧
    decode (busyWith 0x7BFF0000 s50).cur = .ok (.accessR .block 0xFF 0) := ⟨rfl, rfl, rfl⟩

/-- The pins configured: StartDrivesDataThenClockLow, RestartReleasesThenStarts, StopReleasesTheBus,
SendShiftsByteAndSamplesAck, RecvAssemblesSampledByte and AckPulsesTheNinthClock. -/
theorem witness_configured : s0.actScl ≠ 0 ∧ s0.actSda ≠ 0 := by decide

/-- UnconfiguredPinsGuard, and the refusals of SEND, RECV and ACK, by either pin. -/
theorem witness_unconfigured :
    ({ s0 with actScl := 0 } : State).actScl = 0 ∧ ({ s0 with actSda := 0 } : State).actSda = 0 := by
  decide

/-- OpenFollowsItsChecks, both exports succeeding. -/
theorem witness_open :
    let s := answering [true, true] configured
    s.isOpen = false ∧ s.cfgScl ≠ 0 ∧ s.cfgSda ≠ 0 ∧ s.cfgScl ≠ s.cfgSda ∧ (envTake 2 s.env).1 = [true, true] := by
  decide

/-- OpenFollowsItsChecks, its refusals: a bus open; no pin number; the same pin number twice. -/
theorem witness_open_refusals : s0.isOpen = true ∧ (State.reset.isOpen = false ∧ State.reset.cfgScl = 0) ∧
    (let s : State := { State.reset with cfgScl := 18, cfgSda := 18 }
     s.isOpen = false ∧ s.cfgScl = s.cfgSda) := by decide

/-- OpenFollowsItsChecks: the first export fails, and the second. -/
theorem witness_export_fails :
    (let s := answering [false] configured
     s.isOpen = false ∧ s.cfgScl ≠ 0 ∧ s.cfgSda ≠ 0 ∧ s.cfgScl ≠ s.cfgSda ∧ (envTake 1 s.env).1 = [false]) ∧
    (let s := answering [true, false] configured
     s.isOpen = false ∧ s.cfgScl ≠ 0 ∧ s.cfgSda ≠ 0 ∧ s.cfgScl ≠ s.cfgSda ∧ (envTake 2 s.env).1 = [true, false]) := by
  decide

/-- CloseReleasesAndClears: a bus open with the first unexport failing, and none open. -/
theorem witness_close :
    (let s := answering [false, true] s50
     s.isOpen = true ∧ (envTake 2 s.env).1 = [false, true]) ∧ State.reset.isOpen = false := by decide

/-- SetAddrStoresShiftedAddress, both clauses. -/
theorem witness_setaddr : s0.isOpen = true ∧ State.reset.isOpen = false := by decide

/-- AccessPrecondition: both commands; no bus open, and no slave addressed. -/
theorem witness_precondition :
    IsAccess (.accessW .block 0xFF 0) ∧ IsAccess (.accessR .quick 0 0) ∧ State.reset.isOpen = false ∧ s0.saddr = 0 :=
  ⟨⟨_, _, _, .inl rfl⟩, ⟨_, _, _, .inr rfl⟩, rfl, rfl⟩

/-- SizeSelectsThePayloadLength. -/
theorem witness_length : SizeClass.quick ≠ SizeClass.block ∧ SizeClass.byte ≠ SizeClass.block ∧
    SizeClass.word ≠ SizeClass.block := by decide

/-- UnsetPayloadIsAFault, at the last byte of a payload. -/
theorem witness_unset : (holding [0x11] s50).isOpen = true ∧ (holding [0x11] s50).saddr ≠ 0 ∧
    1 < payloadLen .word 0 ∧ memRead (holding [0x11] s50).data 1 = none := by decide

/-- A write of one payload byte, with these answers. -/
def writing (l : List Bool) : State := answering l (holding [0x5A] s50)

/-- Its payload is set. -/
theorem writing_payload (l : List Bool) :
    ∀ i, (h : i < [0x5A#8].length) → memRead (writing l).data i = some [0x5A#8][i] :=
  fun i h => match i, h with | 0, _ => rfl

/-- AccessWriteSucceeds: a payload byte, all three bytes sent acknowledged. -/
theorem witness_write :
    (writing [false, false, false]).isOpen = true ∧ (writing [false, false, false]).saddr ≠ 0 ∧
    [0x5A#8].length = payloadLen .byte 0 ∧
    (∀ i, (h : i < [0x5A#8].length) → memRead (writing [false, false, false]).data i = some [0x5A#8][i]) ∧
    (envTake (writeWire (writing [false, false, false]) 0x10 [0x5A]).length (writing [false, false, false]).env).1 =
      List.replicate (writeWire (writing [false, false, false]) 0x10 [0x5A]).length false :=
  ⟨by decide, by decide, by decide, writing_payload _, by decide⟩

/-- AccessWriteSucceeds with no payload. -/
theorem witness_write_quick :
    let s := answering [false] s50
    s.isOpen = true ∧ s.saddr ≠ 0 ∧ ([] : List Byte).length = payloadLen .quick 0 ∧
    (∀ i, (h : i < ([] : List Byte).length) → memRead s.data i = some ([] : List Byte)[i]) ∧
    (envTake (writeWire s 0x10 []).length s.env).1 = List.replicate (writeWire s 0x10 []).length false :=
  ⟨by decide, by decide, by decide, fun _ h => absurd h (Nat.not_lt_zero _), by decide⟩

/-- AccessWriteNacked: the nack on the address, on the command byte, and on a payload byte. -/
theorem witness_write_nacked : ∀ k, (h : k < 3) →
    let s := writing (List.replicate k false ++ [true])
    s.isOpen = true ∧ s.saddr ≠ 0 ∧ [0x5A#8].length = payloadLen .byte 0 ∧
    (∀ i, (h : i < [0x5A#8].length) → memRead s.data i = some [0x5A#8][i]) ∧
    k < (writeWire s 0x10 [0x5A]).length ∧ (envTake (k + 1) s.env).1 = List.replicate k false ++ [true] :=
  fun k h => match k, h with
    | 0, _ => ⟨by decide, by decide, by decide, writing_payload _, by decide, by decide⟩
    | 1, _ => ⟨by decide, by decide, by decide, writing_payload _, by decide, by decide⟩
    | 2, _ => ⟨by decide, by decide, by decide, writing_payload _, by decide, by decide⟩

/-- AccessReadSucceeds: a byte, and no payload. -/
theorem witness_read :
    (let s := answering ([false, false, false] ++ wireOrder 0x5A) s50
     let acks := [false, false, false]
     s.isOpen = true ∧ s.saddr ≠ 0 ∧ [0x5A#8].length = payloadLen .byte 0 ∧
     acks = (if [0x5A#8] = [] then [false, false] else [false, false, false]) ∧
     (envTake (acks.length + 8 * [0x5A#8].length) s.env).1 = acks ++ [0x5A#8].flatMap wireOrder) ∧
    (let s := answering [false, false] s50
     let acks := [false, false]
     s.isOpen = true ∧ s.saddr ≠ 0 ∧ ([] : List Byte).length = payloadLen .quick 0 ∧
     acks = (if ([] : List Byte) = [] then [false, false] else [false, false, false]) ∧
     (envTake (acks.length + 8 * ([] : List Byte).length) s.env).1 = acks ++ ([] : List Byte).flatMap wireOrder) := by
  decide

/-- AccessReadNacked, its four clauses. -/
theorem witness_read_nacked :
    s50.isOpen = true ∧ s50.saddr ≠ 0 ∧ (envTake 1 (answering [true] s50).env).1 = [true] ∧
    (payloadLen .byte 0 ≠ 0 ∧ (envTake 2 (answering [false, true] s50).env).1 = [false, true]) ∧
    (payloadLen .block 1 ≠ 0 ∧ (envTake 3 (answering [false, false, true] s50).env).1 = [false, false, true]) ∧
    (payloadLen .block 0 = 0 ∧ (envTake 2 (answering [false, true] s50).env).1 = [false, true]) ∧
    (answering [true] s50).isOpen = true ∧ (answering [false, true] s50).isOpen = true ∧
    (answering [false, false, true] s50).isOpen = true ∧ (answering [true] s50).saddr ≠ 0 ∧
    (answering [false, true] s50).saddr ≠ 0 ∧ (answering [false, false, true] s50).saddr ≠ 0 := by decide

/-- EveryAccessEndsWithStop: a write whose payload is set, and a read. -/
theorem witness_ends_with_stop :
    IsAccess (.accessW .byte 0 0x10) ∧ IsAccess (.accessR .byte 0 0x10) ∧ (writing []).isOpen = true ∧
    (writing []).saddr ≠ 0 ∧
    (∀ size len cmdb, Instr.accessW .byte 0 0x10 = .accessW size len cmdb →
      ∀ j, j < payloadLen size len → memRead (writing []).data j ≠ none) ∧
    (∃ t, exec (.accessW .byte 0 0x10) (writing []) = .next t) ∧
    (∃ t, exec (.accessR .byte 0 0x10) (writing []) = .next t) :=
  ⟨⟨_, _, _, .inl rfl⟩, ⟨_, _, _, .inr rfl⟩, by decide, by decide, fun _ _ _ h => by cases h; decide, ⟨_, rfl⟩, ⟨_, rfl⟩⟩

/-- CloseThenAccessFails. -/
theorem witness_close_then_access : IsAccess (.accessR .quick 0 0) ∧ ∃ t, exec .closeBus s50 = .next t :=
  ⟨⟨_, _, _, .inr rfl⟩, ⟨_, rfl⟩⟩

/-- CommandsWriteOnlyTheirRegisters: every command answers a next state, and each clause has a command. -/
theorem witness_commands : (∃ t, exec .start s0 = .next t) ∧ ¬ IsAccess .start ∧ (∀ b, Instr.start ≠ .send b) ∧
    Instr.start ≠ .recv ∧ (∀ size len c, Instr.start ≠ .accessR size len c) ∧ Instr.start ≠ .closeBus ∧
    (∀ a, Instr.start ≠ .setaddr a) ∧ Instr.start ≠ .openBus :=
  ⟨⟨_, rfl⟩, (by rintro ⟨_, _, _, h | h⟩ <;> cases h), fun _ => by simp, by simp, fun _ _ _ => by simp, by simp, fun _ => by simp,
    by simp⟩

/-- OnlyAccessReadWritesData: a read that fails. -/
theorem witness_data : ∃ t, exec (.accessR .byte 0 0) s0 = .next t ∧ t.err ≠ .none ∧ payloadLen .byte 0 ≤ 1 :=
  ⟨_, rfl, by decide, by decide⟩

/-- FlagsDoNotAffectCommands: a SEND with the pins configured, and an ACCESS that passes its checks. -/
theorem witness_flags : (∃ t, exec (.send 0) (answering [true] s0) = .next t ∧ t.faulted = none) ∧
    (answering [true] s0).actScl ≠ 0 ∧ (answering [true] s0).actSda ≠ 0 ∧
    IsAccess (.accessW .byte 0 0x10) ∧ (writing [true]).isOpen = true ∧ (writing [true]).saddr ≠ 0 ∧
    (∃ t, exec (.accessW .byte 0 0x10) (writing [true]) = .next t ∧ t.faulted = none) :=
  ⟨⟨_, rfl, by decide⟩, by decide, by decide, ⟨_, _, _, .inl rfl⟩, by decide, by decide, ⟨_, rfl, by decide⟩⟩

/-- ClockPinStaysAnOutput. -/
theorem witness_clock : (busyWith 0x71000010 s50).busy = true ∧ (busyWith 0x71000010 s50).seq = .start ∧
    decode (busyWith 0x71000010 s50).cur = .ok (.accessW .byte 0 0x10) ∧ Instr.accessW .byte 0 0x10 ≠ .closeBus ∧
    (busyWith 0x71000010 s50).isOpen = true ∧ (busyWith 0x71000010 s50).pins.sclDir = .out :=
  ⟨rfl, rfl, rfl, by decide, rfl, rfl⟩

/-- TraceOnlyGrows, EveryStepKeepsInvariant and EveryStepKeepsDataCanonical: a step from a state with the invariant. -/
theorem witness_steps : Invariant s0 ∧ Memory.wf s0.data = true ∧ ∃ t, step s0 = .next t := ⟨s0_inv, rfl, ⟨_, rfl⟩⟩

/-- CommandWriteStarts. -/
theorem witness_command_write :
    let s := hosted [.write 0 4 0x10000000] s0
    s.faulted = none ∧ s.busy = false ∧ s.host = .write 0 4 0x10000000 :: [] := by decide

/-- WaitedCommandShowsItsStatus, its poll too. -/
theorem witness_waited :
    let s := hosted [.write 0 4 (encode (.setaddr 0x50)), .wait] s0
    s.faulted = none ∧ s.busy = false ∧ s.host = .write 0 4 (encode (.setaddr 0x50)) :: .wait :: [] ∧
    look State.faulted (stepsFrom 2 s) = some none := by decide

/-- BusyWriteIsAFault, at the last decoded offset. -/
theorem witness_busy_write :
    let s := hosted [.write 0x1FC 4 1] (busyWith 0x10000000 s0)
    s.faulted = none ∧ s.busy = true ∧ 0x1FC < 0x200 ∧ s.host = .write 0x1FC 4 1 :: [] := by decide

/-- UndefinedAccessIsAFault: a halfword at an aligned offset, a misaligned word, and both ends of the reserved range, each
read and written. -/
theorem witness_undefined_access :
    (∀ x ∈ [(0x000, 2), (0x1FF, 4), (0x01C, 4), (0x0FC, 4)],
      x.1 < 0x200 ∧ ((x.2 ≠ 4 ∨ x.1 % 4 ≠ 0) ∨ (x.2 = 4 ∧ x.1 % 4 = 0 ∧ 0x1C ≤ x.1 ∧ x.1 ≤ 0xFC)) ∧
      (hosted [.read x.1 x.2] s0).faulted = none ∧ (hosted [.read x.1 x.2] s0).host = .read x.1 x.2 :: [] ∧
      (hosted [.write x.1 x.2 0] s0).faulted = none ∧ (hosted [.write x.1 x.2 0] s0).busy = false ∧
      (hosted [.write x.1 x.2 0] s0).host = .write x.1 x.2 0 :: []) := by decide

/-- ReadOnlyRegistersIgnoreWrites. -/
theorem witness_read_only :
    ∀ off ∈ [0x004, 0x00C, 0x010, 0x014, 0x018], (hosted [.write off 4 1] s0).faulted = none ∧
      (hosted [.write off 4 1] s0).busy = false ∧ (hosted [.write off 4 1] s0).host = .write off 4 1 :: [] := by decide

/-- PincfgReadsBack. -/
theorem witness_pincfg :
    let s := hosted [.write 0x008 4 0xFFFFFFFF, .read 0x008 4] s0
    s.faulted = none ∧ s.busy = false ∧ s.host = .write 0x008 4 0xFFFFFFFF :: .read 0x008 4 :: [] := by decide

/-- DataWordIsLittleEndian, at the first and the last DATA word, written and read. -/
theorem witness_data_word :
    ∀ k ∈ [0, 63], k < 64 ∧ s0.faulted = none ∧ s0.busy = false ∧
      (hosted [.write (0x100 + 4 * k) 4 1] s0).host = .write (0x100 + 4 * k) 4 1 :: [] ∧
      (hosted [.read (0x100 + 4 * k) 4] s0).host = .read (0x100 + 4 * k) 4 :: [] := by decide

/-- DataWordIsLittleEndian: a word with all four bytes set is read. -/
theorem witness_data_set : ∀ j : Fin 4, memRead (holding [1, 2, 3, 4] s0).data (4 * 0 + j) = some ([1, 2, 3, 4][j] : Byte) := by
  decide

/-- DataWordIsLittleEndian: the last byte of the last DATA word UNSET. -/
theorem witness_unset_read :
    let s := hosted [.read (0x100 + 4 * 63) 4] s0
    s.faulted = none ∧ s.busy = false ∧ 63 < 64 ∧ 3 < 4 ∧ memRead s.data (4 * 63 + 3) = none ∧
    s.host = .read (0x100 + 4 * 63) 4 :: [] := by decide

/-- ReadsWhileBusy: STATUS, PINCFG, CMD and a register, and the first and last DATA words. -/
theorem witness_busy_reads :
    ∀ off ∈ [0x004, 0x008, 0x000, 0x00C, 0x100, 0x1FC],
      (hosted [.read off 4] (busyWith 0x10000000 s0)).faulted = none ∧
      (hosted [.read off 4] (busyWith 0x10000000 s0)).busy = true ∧
      (hosted [.read off 4] (busyWith 0x10000000 s0)).host = .read off 4 :: [] := by decide

/-- RegistersReadAsLaidOut. -/
theorem witness_registers :
    ∀ off ∈ [0x000, 0x004, 0x008, 0x00C, 0x010, 0x014, 0x018], (hosted [.read off 4] s0).faulted = none ∧
      (hosted [.read off 4] s0).busy = false ∧ (hosted [.read off 4] s0).host = .read off 4 :: [] := by decide

/-- LinesFields, both clauses. -/
theorem witness_lines : State.reset.isOpen = false ∧ s0.isOpen = true := by decide

/-- FaultedIsNeverCleared: a marked machine with a command in flight. -/
theorem witness_marked : (marked .busyWrite (busyWith 0x60000050 s0)).faulted = some .busyWrite ∧
    ∃ t, step (marked .busyWrite (busyWith 0x60000050 s0)) = .next t := ⟨rfl, ⟨_, rfl⟩⟩

/-- MarkedMachineStops: not busy, at a command's start, and inside a command. -/
theorem witness_marked_stops : (marked .badWidth s0).faulted = some .badWidth ∧ (marked .badWidth s0).busy = false ∧
    (marked .busyWrite (busyWith 0x10000000 s0)).busy = true ∧ (marked .busyWrite (busyWith 0x10000000 s0)).seq = .start ∧
    decode (marked .busyWrite (busyWith 0x10000000 s0)).cur = .ok .start ∧
    (engineStep (busyWith 0x10000000 s0)).seq = .running [.set scl false] [] .engine :=
  ⟨rfl, rfl, rfl, rfl, rfl, by decide⟩

/-- ResetKeepsTrace. -/
theorem witness_reset : (hosted [.reset] (busyWith 0x10000000 s0)).faulted = none ∧
    (hosted [.reset] (busyWith 0x10000000 s0)).host = .reset :: [] := by decide

/-- StartConditionOnlyFromIdle, RestartMakesOneStartCondition, StopConditionOnlyIfDataLow and AckWindowTransitions, on the
idle bus and mid-transaction. -/
theorem witness_line_conditions : s0.actScl ≠ 0 ∧ s0.actSda ≠ 0 ∧ PinsSettled s0.pins ∧
    PinsSettled { s0.pins with sclLat := false } ∧ (∃ t, exec .restart s0 = .next t) ∧
    (∃ t, exec (.send 1) { s0 with pins := { s0.pins with sclLat := false } } = .next t) :=
  ⟨by decide, by decide, ⟨rfl, rfl, fun _ => rfl⟩, ⟨rfl, rfl, fun _ => rfl⟩, ⟨_, rfl⟩, ⟨_, rfl⟩⟩

/-- PseudoInstructionResults, both clauses. -/
theorem witness_pseudo : statusOk 0x00010002 = true ∧ statusOk 0x00000116 = false := by decide

end Sys2Proof.Tests
end

/-! PROOFS. The scope of the machine: what a step does with the host's next action. -/

namespace Sys2Proof.Machine

/-- An unmarked machine whose host has an action left takes the turn of that action (R8, R47). -/
theorem step_of_host_cons {s : State} {a : HostAction} {rest : List HostAction}
    (hf : s.faulted = none) (hh : s.host = a :: rest) : step s = hostTurn a s := by
  simp only [step, machineStep, turn, hf, hh]

theorem popHost_of_host_cons {s : State} {a : HostAction} {rest : List HostAction}
    (hh : s.host = a :: rest) : popHost s = { s with host := rest } := by
  simp only [popHost, hh, List.tail_cons]

theorem hostTurn_tick (s : State) : hostTurn .tick s = .next (engineStep (popHost s)) := rfl

/-- Settles O9: the step is the turn of the tick, and dropping the action made leaves the rest of the script. -/
theorem tickIsOneEngineStep : Obligations.TickIsOneEngineStep := by
  intro s rest hf hh
  calc step s = hostTurn .tick s := step_of_host_cons hf hh
    _ = .next (engineStep (popHost s)) := hostTurn_tick s
    _ = .next (engineStep { s with host := rest }) := by rw [popHost_of_host_cons hh]

end Sys2Proof.Machine

/-! PROOFS. The register window: what an aligned host access of 32 bits does, and the words the registers read as. -/

namespace Sys2Proof.Machine

-- ## Host accesses

/-- A 32-bit write to an aligned, decoded offset while BUSY = 0 is a store (R42, R43). -/
theorem hostWrite_eq_storeWord {off : Nat} (v : Word) {s : State} (hb : s.busy = false)
    (hoff : off % 4 = 0 ∧ (off < 0x1C ∨ 0x100 ≤ off ∧ off < 0x200)) : hostWrite off 4 v s = storeWord off v s := by
  obtain ⟨halign, hdecoded⟩ := hoff
  have hin : outsideWindow off = false := decide_eq_false (by omega)
  have hgood : badAccess off 4 = false := by simp [badAccess, halign]
  have hmapped : reservedOffset off = false := by simp [reservedOffset]; omega
  simp [hostWrite, hin, hb, hgood, hmapped]

/-- A 32-bit read at an aligned, decoded offset returns the word there (R42, R43). -/
theorem hostRead_eq_readWord {off : Nat} (s : State)
    (hoff : off % 4 = 0 ∧ (off < 0x1C ∨ 0x100 ≤ off ∧ off < 0x200)) : hostRead off 4 s = readWord off s := by
  obtain ⟨halign, hdecoded⟩ := hoff
  have hin : outsideWindow off = false := decide_eq_false (by omega)
  have hgood : badAccess off 4 = false := by simp [badAccess, halign]
  have hmapped : reservedOffset off = false := by simp [reservedOffset]; omega
  simp [hostRead, hin, hgood, hmapped]

/-- The step of an accepted 32-bit write stores its word, the write removed from the script. -/
theorem step_of_write {s : State} {off : Nat} {v : Word} {rest : List HostAction} (hf : s.faulted = none)
    (hb : s.busy = false) (hoff : off % 4 = 0 ∧ (off < 0x1C ∨ 0x100 ≤ off ∧ off < 0x200))
    (hh : s.host = .write off 4 v :: rest) : step s = .next (storeWord off v { s with host := rest }) :=
  calc step s = .next (hostWrite off 4 v (popHost s)) := step_of_host_cons hf hh
    _ = .next (storeWord off v (popHost s)) := by rw [hostWrite_eq_storeWord v (by exact hb) hoff]
    _ = .next (storeWord off v { s with host := rest }) := by rw [popHost_of_host_cons hh]

/-- The step of a 32-bit read returns the word read, the read removed from the script. -/
theorem step_of_read {s : State} {off : Nat} {rest : List HostAction} (hf : s.faulted = none)
    (hoff : off % 4 = 0 ∧ (off < 0x1C ∨ 0x100 ≤ off ∧ off < 0x200)) (hh : s.host = .read off 4 :: rest) :
    step s = .next (readWord off { s with host := rest }) :=
  calc step s = .next (hostRead off 4 (popHost s)) := step_of_host_cons hf hh
    _ = .next (readWord off (popHost s)) := by rw [hostRead_eq_readWord _ hoff]
    _ = .next (readWord off { s with host := rest }) := by rw [popHost_of_host_cons hh]

@[simp] theorem storeWord_cmd (v : Word) (s : State) : storeWord 0 v s = acceptCommand v s := rfl

@[simp] theorem storeWord_pincfg (v : Word) (s : State) :
    storeWord 8 v s = { s with cfgScl := v.extractLsb' 0 16, cfgSda := v.extractLsb' 16 16 } := rfl

/-- No store changes a register below DATA but CMD and PINCFG (R26). -/
theorem storeWord_readOnly {off : Nat} (v : Word) (s : State) (hreg : off < 0x100) (hcmd : off ≠ 0) (hcfg : off ≠ 8) :
    storeWord off v s = s := by
  simp [storeWord, hreg, hcmd, hcfg]

@[simp] theorem readWord_status (s : State) : readWord 4 s = returnRead (statusWord s) s := rfl

@[simp] theorem readWord_pincfg (s : State) : readWord 8 s = returnRead (s.cfgSda ++ s.cfgScl) s := rfl

/-- While BUSY = 1 every word but STATUS and PINCFG reads free (R27, R46). -/
theorem readWord_of_busy {off : Nat} {s : State} (hb : s.busy = true) (hstatus : off ≠ 4) (hcfg : off ≠ 8) :
    readWord off s = returnFree s := by
  simp [readWord, hb, hstatus, hcfg]

/-- While BUSY = 0 a register reads its settled word (R19 to R25). -/
theorem readWord_register {off : Nat} {s : State} (hb : s.busy = false) (hreg : off < 0x100) (hstatus : off ≠ 4)
    (hcfg : off ≠ 8) : readWord off s = returnRead (settledRegister off s) s := by
  simp [readWord, hb, hreg, hstatus, hcfg]

/-- Settles O37: offset 0 is aligned and decoded, and a store there accepts the command. -/
theorem commandWriteStarts : Obligations.CommandWriteStarts := by
  intro s w rest hf hb hh
  rw [step_of_write hf hb (by decide) hh, storeWord_cmd]
  rfl

/-- Settles O41: none of the five offsets is CMD's, PINCFG's or DATA's. -/
theorem readOnlyRegistersIgnoreWrites : Obligations.ReadOnlyRegistersIgnoreWrites := by
  intro s off v rest hf hb hoff hh
  simp only [List.mem_cons, List.not_mem_nil, or_false] at hoff
  rw [step_of_write hf hb (by omega) hh, storeWord_readOnly v _ (by omega) (by omega) (by omega)]

/-- The two halves of a PINCFG word make the word (R21). -/
theorem pincfg_halves (v : Word) : v.extractLsb' 16 16 ++ v.extractLsb' 0 16 = v :=
  (BitVec.extractLsb'_append_extractLsb'_eq_extractLsb' rfl).trans BitVec.extractLsb'_eq_self

/-- Settles O42: the write stores the two halves of the word, and the read puts them together again. -/
theorem pincfgReadsBack : Obligations.PincfgReadsBack := by
  intro s v rest hf hb hh
  refine ⟨_, step_of_write hf hb (by decide) hh,
    (step_of_read (off := 8) (rest := rest) (by exact hf) (by decide) rfl).trans ?_⟩
  simp only [readWord_pincfg, returnRead, storeWord_pincfg, pincfg_halves]

/-- Settles O44: STATUS and PINCFG are read before BUSY is looked at, and every other word after it. -/
theorem readsWhileBusy : Obligations.ReadsWhileBusy := by
  intro s off rest hf hb hh
  refine ⟨?status, ?pincfg, ?other⟩
  case status =>
    rintro rfl
    rw [step_of_read hf (by decide) hh, readWord_status]
    rfl
  case pincfg =>
    rintro rfl
    rw [step_of_read hf (by decide) hh, readWord_pincfg]
    rfl
  case other =>
    intro hoff
    simp only [List.mem_cons, List.not_mem_nil, or_false] at hoff
    rw [step_of_read hf (by omega) hh, readWord_of_busy (by exact hb) (by omega) (by omega)]
    rfl

-- ## The words the registers read as

/-- A byte register reads zero-extended (R23, R24). -/
theorem zero_append_byte (b : Byte) : 0#24 ++ b = b.setWidth 32 := (BitVec.setWidth_eq_append (by decide)).symm

/-- The step of a read of a register other than STATUS and PINCFG while BUSY = 0 returns its settled word. -/
theorem step_of_register_read {s : State} {off : Nat} {rest : List HostAction} (hf : s.faulted = none)
    (hb : s.busy = false) (hoff : off % 4 = 0 ∧ off < 0x1C ∧ off ≠ 4 ∧ off ≠ 8) (hh : s.host = .read off 4 :: rest) :
    step s = .next { s with reads := s.reads ++ [settledRegister off s], host := rest } := by
  rw [step_of_read hf (by omega) hh, readWord_register (by exact hb) (by omega) (by omega) (by omega)]
  rfl

/-- Settles O45: STATUS and PINCFG have their own reads, the other five offsets select a settled word. -/
theorem registersReadAsLaidOut : Obligations.RegistersReadAsLaidOut := by
  intro s rest hf hb
  simp only [← zero_append_byte, List.forall_mem_cons, List.not_mem_nil, false_imp_iff, implies_true, and_true]
  exact ⟨step_of_register_read hf hb (by decide), step_of_read hf (by decide), step_of_read hf (by decide),
    step_of_register_read hf hb (by decide), step_of_register_read hf hb (by decide),
    step_of_register_read hf hb (by decide), step_of_register_read hf hb (by decide)⟩

@[simp] theorem getLsbD_ofBool_zero (b : Bool) : (BitVec.ofBool b).getLsbD 0 = b := by cases b <;> rfl

@[simp] theorem Dir.getLsbD_bit_zero (d : Dir) : d.bit.getLsbD 0 = decide (d = .out) := by cases d <;> rfl

/-- Settles O46: each field is read off the place it has in the concatenation. -/
theorem statusFields : Obligations.StatusFields := by
  refine ⟨fun s => ⟨?_, ?_, ?_, ?_, ?_, ?_, ?_, ?_, ?_⟩, by decide, by decide⟩
  all_goals
    simp (disch := omega) only [statusWord, BitVec.getLsbD_append, BitVec.extractLsb'_append_eq_of_le,
      BitVec.extractLsb'_append_eq_of_add_le, if_pos, if_neg, BitVec.extractLsb'_eq_self, Nat.sub_self, Nat.reduceSub,
      getLsbD_ofBool_zero, BitVec.getLsbD_zero, BitVec.ofNat_eq_ofNat]

/-- Settles O47: closed, the word is 0; open, each field is read off its place in the concatenation. -/
theorem linesFields : Obligations.LinesFields := by
  intro s
  refine ⟨fun hclosed => by simp only [linesWord, hclosed, Bool.false_eq_true, if_false],
    fun hopen => ⟨?_, ?_, ?_, ?_⟩⟩
  all_goals
    simp (disch := omega) only [linesWord, hopen, if_true, BitVec.getLsbD_append, BitVec.extractLsb'_append_eq_of_le,
      if_pos, if_neg, BitVec.extractLsb'_eq_self, Nat.sub_self, Nat.reduceSub, getLsbD_ofBool_zero,
      Dir.getLsbD_bit_zero, BitVec.ofNat_eq_ofNat]

end Sys2Proof.Machine

/-! PROOFS. Reset, and the steps in which the engine runs on: while the host waits, and on a marked machine (R17, R38,
R39, R89). -/

namespace Sys2Proof.Machine

/-- Settles O51: the values of the reset record. -/
theorem resetValues : Obligations.ResetValues := by
  refine ⟨rfl, rfl, rfl, rfl, rfl, rfl, rfl, rfl, rfl, rfl, rfl, rfl, ?status, ?lines, memRead_nil, rfl, rfl⟩
  case status => decide
  case lines => decide

/-- While the host waits, the step of a busy unmarked machine runs the engine on (R47, R61). -/
theorem step_of_hostWaits {s : State} (hf : s.faulted = none) (hb : s.busy = true) (hw : Claims.HostWaits s) :
    step s = runToCompletion s := by
  obtain hdone | ⟨rest, hwait⟩ := hw
  · simp only [step, machineStep, turn, hf, hdone, hb, if_true]
  · rw [step_of_host_cons hf hwait]
    simp only [hostTurn, waitTurn, hb, if_true]

/-- A marked machine whose command runs runs it on (R89). -/
theorem step_of_marked_busy {s : State} {r : Fault} (hf : s.faulted = some r) (hb : s.busy = true) :
    step s = runToCompletion s := by
  simp only [step, machineStep, hf, hb, if_true]

/-- At a command's start, running on is the whole command (R17). -/
theorem runToCompletion_of_start {s : State} {i : Instr} (hq : s.seq = .start) (hd : decode s.cur = .ok i) :
    runToCompletion s = exec i s := by
  simp only [runToCompletion, hq, hd]

/-- Settles O7: the host waits, so the engine runs on, and at its start that is the whole command. -/
theorem stepRunsDecodedCommand : Obligations.StepRunsDecodedCommand := by
  intro s i hf hb hq hd hw
  rw [step_of_hostWaits hf hb hw, runToCompletion_of_start hq hd]

/-- Settles O50: a mark leaves only the command in flight to run. -/
theorem markedMachineStops : Obligations.MarkedMachineStops := by
  intro s r hf
  refine ⟨?stops, ?atStart, ?inside, ?notFinal⟩
  case stops =>
    intro hb
    simp only [step, machineStep, hf, hb, Bool.false_eq_true, if_false]
  case atStart =>
    intro i hb hq hd
    rw [step_of_marked_busy hf hb, runToCompletion_of_start hq hd]
  case inside =>
    intro body tail fin hb hq
    rw [step_of_marked_busy hf hb, runToCompletion_eq, hq]
  case notFinal =>
    rintro ⟨-, -, hunmarked⟩
    rw [hf] at hunmarked
    cases hunmarked

end Sys2Proof.Machine

/-! PROOFS. What a pin operation and a completion step leave alone, register by register (R17, R28, R35). -/

namespace Sys2Proof.Machine

open Claims (IsAccess)

-- ## The registers no pin operation writes

section
variable (op : PinOp) (s : State)

@[simp] theorem doOp_busy : (doOp op s).busy = s.busy := by rw [doOp_frame]; rfl
@[simp] theorem doOp_isOpen : (doOp op s).isOpen = s.isOpen := by rw [doOp_frame]; rfl
@[simp] theorem doOp_nack : (doOp op s).nack = s.nack := by rw [doOp_frame]; rfl
@[simp] theorem doOp_err : (doOp op s).err = s.err := by rw [doOp_frame]; rfl
@[simp] theorem doOp_nphase : (doOp op s).nphase = s.nphase := by rw [doOp_frame]; rfl
@[simp] theorem doOp_xcount : (doOp op s).xcount = s.xcount := by rw [doOp_frame]; rfl
@[simp] theorem doOp_cfgScl : (doOp op s).cfgScl = s.cfgScl := by rw [doOp_frame]; rfl
@[simp] theorem doOp_cfgSda : (doOp op s).cfgSda = s.cfgSda := by rw [doOp_frame]; rfl
@[simp] theorem doOp_actScl : (doOp op s).actScl = s.actScl := by rw [doOp_frame]; rfl
@[simp] theorem doOp_actSda : (doOp op s).actSda = s.actSda := by rw [doOp_frame]; rfl
@[simp] theorem doOp_saddr : (doOp op s).saddr = s.saddr := by rw [doOp_frame]; rfl
@[simp] theorem doOp_rxbyte : (doOp op s).rxbyte = s.rxbyte := by rw [doOp_frame]; rfl
@[simp] theorem doOp_cur : (doOp op s).cur = s.cur := by rw [doOp_frame]; rfl
@[simp] theorem doOp_faulted : (doOp op s).faulted = s.faulted := by rw [doOp_frame]; rfl
@[simp] theorem doOp_host : (doOp op s).host = s.host := by rw [doOp_frame]; rfl
@[simp] theorem doOp_reads : (doOp op s).reads = s.reads := by rw [doOp_frame]; rfl
@[simp] theorem doOp_readDraws : (doOp op s).readDraws = s.readDraws := by rw [doOp_frame]; rfl
end

-- ## What a pin operation does to DATA, the pins and the local variables

theorem sampleLine_state (p : Pin) (s : State) : ∃ e, (sampleLine p s).2 = { s with env := e } := by
  simp only [sampleLine]
  split
  · exact ⟨s.env, rfl⟩
  · exact ⟨_, rfl⟩

/-- A sample changes only the trace and the environment. -/
theorem pinGet_state (p : Pin) (s : State) :
    ∃ e, (pinGet p s).2 = { s with trace := s.trace ++ [.sample p (pinGet p s).1], env := e } := by
  obtain ⟨e, he⟩ := sampleLine_state p s
  refine ⟨e, ?_⟩
  simp only [pinGet, he, emit]

@[simp] theorem pinGet_data (p : Pin) (s : State) : (pinGet p s).2.data = s.data := by
  obtain ⟨e, he⟩ := pinGet_state p s
  rw [he]

@[simp] theorem pinGet_pins (p : Pin) (s : State) : (pinGet p s).2.pins = s.pins := by
  obtain ⟨e, he⟩ := pinGet_state p s
  rw [he]

@[simp] theorem pinGet_loc (p : Pin) (s : State) : (pinGet p s).2.loc = s.loc := by
  obtain ⟨e, he⟩ := pinGet_state p s
  rw [he]

/-- Only the end of an ACCESS.R's `Recv` writes DATA, one byte (R37, R83). -/
theorem doOp_data (op : PinOp) (s : State) :
    (doOp op s).data = s.data ∨
      ∃ p i, op = .endRecv p (some i) ∧ (doOp op s).data = memWrite s.data i.toNat s.loc.shift := by
  cases op with
  | getAck p => exact .inl (pinGet_data p s)
  | getBit p i => exact .inl (pinGet_data p s)
  | endRecv p dst =>
    cases dst with
    | none => exact .inl rfl
    | some i => exact .inr ⟨p, i, rfl, rfl⟩
  | _ => exact .inl rfl

/-- What a pin operation does to the procedures' variables, `a` being the answer it got (R69, R70, R73, R74, R81). -/
def locAfter (op : PinOp) (a : Level) (l : Locals) : Locals :=
  match op with
  | .set _ _ => l
  | .dir _ _ => l
  | .getAck _ => { l with ack := some a }
  | .endSend _ role => l.afterSend role
  | .beginRecv _ => { l with shift := 0 }
  | .getBit _ i => l.shiftIn i a
  | .endRecv _ none => { l with rx := some l.shift }
  | .endRecv _ (some _) => { l with rx := some l.shift, count := l.count + 1 }
  | .exportPin _ => l.afterExport a
  | .unexportPin _ => l.afterUnexport a

theorem doOp_loc (op : PinOp) (s : State) : ∃ a, (doOp op s).loc = locAfter op a s.loc := by
  cases op with
  | getAck p => exact ⟨(pinGet p s).1, by simp only [doOp, setLoc_loc, locAfter]⟩
  | getBit p i => exact ⟨(pinGet p s).1, by simp only [doOp, setLoc_loc, locAfter]⟩
  | endRecv p dst => exact ⟨false, by cases dst <;> rfl⟩
  | exportPin p => exact ⟨_, rfl⟩
  | unexportPin p => exact ⟨_, rfl⟩
  | _ => exact ⟨false, rfl⟩

/-- Only a `Send` samples an acknowledge bit (R69). -/
theorem doOp_ack {op : PinOp} (s : State) (h : ∀ p, op ≠ .getAck p) : (doOp op s).loc.ack = s.loc.ack := by
  obtain ⟨a, ha⟩ := doOp_loc op s
  rw [ha]
  cases op with
  | getAck p => exact absurd rfl (h p)
  | endSend p role => simp only [locAfter, Locals.afterSend]; split <;> split <;> rfl
  | endRecv p dst => cases dst <;> rfl
  | exportPin p => cases a <;> rfl
  | unexportPin p => cases a <;> rfl
  | _ => rfl

/-- Only a `Recv` returns a byte (R70). -/
theorem doOp_rx {op : PinOp} (s : State) (h : ∀ p dst, op ≠ .endRecv p dst) : (doOp op s).loc.rx = s.loc.rx := by
  obtain ⟨a, ha⟩ := doOp_loc op s
  rw [ha]
  cases op with
  | endSend p role => simp only [locAfter, Locals.afterSend]; split <;> split <;> rfl
  | endRecv p dst => exact absurd rfl (h p dst)
  | exportPin p => cases a <;> rfl
  | unexportPin p => cases a <;> rfl
  | _ => rfl

/-- A bit once sampled stays sampled, or is sampled again. -/
theorem doOp_ack_ne_none (op : PinOp) {s : State} (h : s.loc.ack ≠ none) : (doOp op s).loc.ack ≠ none := by
  by_cases hop : ∃ p, op = .getAck p
  · obtain ⟨p, rfl⟩ := hop
    simp [doOp]
  · rw [doOp_ack s (fun p hp => hop ⟨p, hp⟩)]
    exact h

/-- Only the end of a `Send` sets the phase (R81). -/
theorem doOp_phase {op : PinOp} (s : State) (h : ∀ p role, op ≠ .endSend p role) :
    (doOp op s).loc.phase = s.loc.phase := by
  obtain ⟨a, ha⟩ := doOp_loc op s
  rw [ha]
  cases op with
  | endSend p role => exact absurd rfl (h p role)
  | endRecv p dst => cases dst <;> rfl
  | exportPin p => cases a <;> rfl
  | unexportPin p => cases a <;> rfl
  | _ => rfl

/-- The phase is set only together with the abort (R81). -/
theorem doOp_phase_none (op : PinOp) {s : State} (h : s.loc.abort = false → s.loc.phase = .none) :
    (doOp op s).loc.abort = false → (doOp op s).loc.phase = .none := by
  obtain ⟨a, ha⟩ := doOp_loc op s
  rw [ha]
  cases op with
  | endSend p role =>
    simp only [locAfter, Locals.afterSend]
    split
    · split
      · intro habort; cases habort
      · exact h
    · split <;> exact h
  | endRecv p dst => cases dst <;> exact h
  | exportPin p => cases a <;> simp [locAfter, Locals.afterExport]; exact h
  | unexportPin p => cases a <;> exact h
  | _ => exact h

-- ## The registers each completion step leaves alone

section
variable {fin : Completion} {s : State}

theorem commit_nphase_xcount (h : fin ≠ .access) :
    (commit fin s).nphase = s.nphase ∧ (commit fin s).xcount = s.xcount := by
  cases fin with
  | access => exact absurd rfl h
  | opened c d => simp only [commit, commitOpen]; split <;> exact ⟨rfl, rfl⟩
  | _ => exact ⟨rfl, rfl⟩

theorem commit_nack (h : s.loc.ack = none) : (commit fin s).nack = s.nack := by
  cases fin with
  | engine => simp [commit, commitLocals, h]
  | access => simp [commit, commitAccess, commitLocals, h]
  | opened c d => simp only [commit, commitOpen]; split <;> rfl
  | _ => rfl

theorem commit_rxbyte (h : s.loc.rx = none) : (commit fin s).rxbyte = s.rxbyte := by
  cases fin with
  | engine => simp [commit, commitLocals, h]
  | access => simp [commit, commitAccess, commitLocals, h]
  | opened c d => simp only [commit, commitOpen]; split <;> rfl
  | _ => rfl

theorem commit_saddr (hset : ∀ a, fin ≠ .setAddr a) (hclosed : fin ≠ .closed) : (commit fin s).saddr = s.saddr := by
  cases fin with
  | setAddr a => exact absurd rfl (hset a)
  | closed => exact absurd rfl hclosed
  | opened c d => simp only [commit, commitOpen]; split <;> rfl
  | _ => rfl

theorem commit_isOpen_act (hopened : ∀ c d, fin ≠ .opened c d) (hclosed : fin ≠ .closed) :
    (commit fin s).isOpen = s.isOpen ∧ (commit fin s).actScl = s.actScl ∧ (commit fin s).actSda = s.actSda ∧
      (commit fin s).pins = s.pins := by
  cases fin with
  | opened c d => exact absurd rfl (hopened c d)
  | closed => exact absurd rfl hclosed
  | _ => exact ⟨rfl, rfl, rfl, rfl⟩
end

end Sys2Proof.Machine

/-! PROOFS. What a command's plan may contain, said once for all commands, and the two inductions over it: over the
operations a whole command runs, and over the engine's single steps. -/

namespace Sys2Proof.Machine

open Claims (IsAccess)

-- ## The operations of the procedures

section
variable {P : PinOp → Prop} (w : Wires)

theorem forall_mem_startOps (hset : ∀ p v, P (.set p v)) : ∀ op ∈ startOps w, P op := by simp [startOps, hset]

theorem forall_mem_restartOps (hset : ∀ p v, P (.set p v)) : ∀ op ∈ restartOps w, P op := by simp [restartOps, hset]

theorem forall_mem_stopOps (hset : ∀ p v, P (.set p v)) : ∀ op ∈ stopOps w, P op := by simp [stopOps, hset]

theorem forall_mem_ackOps (hset : ∀ p v, P (.set p v)) : ∀ op ∈ ackOps w, P op := by simp [ackOps, hset]

theorem forall_mem_sendOps (b : Byte) (role : SendRole) (hset : ∀ p v, P (.set p v)) (hdir : ∀ d, P (.dir w.sda d))
    (hack : P (.getAck w.sda)) (hend : P (.endSend w.scl role)) : ∀ op ∈ sendOps w b role, P op := by
  rw [sendOps, List.forall_mem_append]
  refine ⟨fun op hop => ?_, by simp [ackWindowOps, hset, hdir, hack, hend]⟩
  obtain ⟨i, -, hi⟩ := List.mem_flatMap.mp hop
  exact (show ∀ op ∈ sendBitOps w (b.getLsbD i), P op by simp [sendBitOps, hset]) op hi

theorem forall_mem_recvOps (dst : Option (BitVec 8)) (hset : ∀ p v, P (.set p v)) (hbegin : P (.beginRecv w.sda))
    (hbit : ∀ i, P (.getBit w.sda i)) (hend : P (.endRecv w.sda dst)) : ∀ op ∈ recvOps w dst, P op := by
  rw [recvOps, List.forall_mem_append, List.forall_mem_append]
  refine ⟨⟨by simp [hbegin], fun op hop => ?_⟩, by simp [hend]⟩
  obtain ⟨i, -, hi⟩ := List.mem_flatMap.mp hop
  exact (show ∀ op ∈ recvBitOps w i, P op by simp [recvBitOps, hset, hbit]) op hi

theorem forall_mem_readBytesOps (i n : Nat) (hset : ∀ p v, P (.set p v)) (hbegin : P (.beginRecv w.sda))
    (hbit : ∀ k, P (.getBit w.sda k)) (hend : ∀ j, j < i + n → P (.endRecv w.sda (some (BitVec.ofNat 8 j)))) :
    ∀ op ∈ readBytesOps w i n, P op := by
  have hrecv (h : i < i + n) : ∀ op ∈ recvOps w (some (BitVec.ofNat 8 i)), P op :=
    forall_mem_recvOps w _ hset hbegin hbit (hend i h)
  induction i, n using readBytesOps.induct with
  | case1 i => simp [readBytesOps]
  | case2 i => exact hrecv (by omega)
  | case3 i k ih =>
    have hrest := ih (fun j hj => hend j (by omega))
      (fun _ => forall_mem_recvOps w _ hset hbegin hbit (hend _ (by omega)))
    rw [readBytesOps, List.forall_mem_append, List.forall_mem_append]
    exact ⟨⟨hrecv (by omega), forall_mem_ackOps w hset⟩, hrest⟩

/-- The part of ACCESS.R's body before the data phase (R83). -/
def readHeaderOps (w : Wires) (aw ar cmdb : Byte) (len : Nat) : List PinOp :=
  startOps w ++ sendOps w aw .addrWrite ++ (if len = 0 then [] else sendOps w cmdb .command) ++
    restartOps w ++ sendOps w ar .addrRead

theorem accessReadBody_eq (w : Wires) (aw ar cmdb : Byte) (len : Nat) :
    accessReadBody w aw ar cmdb len = readHeaderOps w aw ar cmdb len ++ readBytesOps w 0 len := rfl

theorem forall_mem_readHeaderOps (aw ar cmdb : Byte) (len : Nat) (hset : ∀ p v, P (.set p v))
    (hdir : ∀ d, P (.dir w.sda d)) (hack : P (.getAck w.sda)) (hend : ∀ role, P (.endSend w.scl role)) :
    ∀ op ∈ readHeaderOps w aw ar cmdb len, P op := by
  have hsend (b : Byte) (role : SendRole) := forall_mem_sendOps w b role hset hdir hack (hend role)
  simp only [readHeaderOps, List.forall_mem_append]
  refine ⟨⟨⟨⟨forall_mem_startOps w hset, hsend _ _⟩, ?command⟩, forall_mem_restartOps w hset⟩, hsend _ _⟩
  case command =>
    split
    · simp
    · exact hsend _ _

theorem forall_mem_accessWriteBody (aw cmdb : Byte) (bytes : List Byte) (hset : ∀ p v, P (.set p v))
    (hdir : ∀ d, P (.dir w.sda d)) (hack : P (.getAck w.sda)) (hend : ∀ role, P (.endSend w.scl role)) :
    ∀ op ∈ accessWriteBody w aw cmdb bytes, P op := by
  have hsend (b : Byte) (role : SendRole) := forall_mem_sendOps w b role hset hdir hack (hend role)
  simp only [accessWriteBody, List.forall_mem_append]
  refine ⟨⟨forall_mem_startOps w hset, hsend _ _⟩, ?payload⟩
  case payload =>
    split
    · simp
    · rw [List.forall_mem_append]
      refine ⟨hsend _ _, fun op hop => ?_⟩
      obtain ⟨b, -, hb⟩ := List.mem_flatMap.mp hop
      exact hsend b _ op hb
end

-- ## What a plan may contain

/-- Every operation of the plan satisfies `P`, and its completion `Q`. -/
def Plan.Only (P : PinOp → Prop) (Q : Completion → Prop) (p : Plan) : Prop :=
  match p with
  | .run body tail fin => (∀ op ∈ body ++ tail, P op) ∧ Q fin
  | .fault _ => True

section
variable {P : PinOp → Prop} {Q : Completion → Prop}

theorem only_planDone {fin : Completion} (h : Q fin) : (planDone fin).Only P Q := ⟨by simp, h⟩

theorem only_run_nil {body : List PinOp} {fin : Completion} (hbody : ∀ op ∈ body, P op) (hfin : Q fin) :
    (Plan.run body [] fin).Only P Q := ⟨by simpa using hbody, hfin⟩

theorem only_enginePlan {e : Err} {ops : List PinOp} {s : State} (hrefuse : Q (.report e)) (hops : ∀ op ∈ ops, P op)
    (hfin : Q .engine) : (enginePlan e ops s).Only P Q := by
  unfold enginePlan
  split
  · exact only_planDone hrefuse
  · exact only_run_nil hops hfin
end

/-- The pin operations command `i` may do from state `s` (R66 to R74, R81 to R83). -/
def MayDo (i : Instr) (s : State) (op : PinOp) : Prop :=
  match op with
  | .set _ _ => True
  | .dir p _ => p.line = .sda ∨ (i = .openBus ∧ s.isOpen = false)
  | .getAck _ => (∃ b, i = .send b) ∨ IsAccess i
  | .endSend _ _ => (∃ b, i = .send b) ∨ IsAccess i
  | .beginRecv p => p.line = .sda
  | .getBit _ _ => True
  | .endRecv _ dst => (i = .recv ∧ dst = none) ∨
      ∃ size len cmdb j, i = .accessR size len cmdb ∧ j < payloadLen size len ∧ dst = some (BitVec.ofNat 8 j)
  | .exportPin _ => i = .openBus ∧ s.isOpen = false
  | .unexportPin _ => i = .closeBus

/-- The completion steps command `i` may end with from state `s`. -/
def MayEndWith (i : Instr) (s : State) (fin : Completion) : Prop :=
  match fin with
  | .report _ => True
  | .setAddr a7 => i = .setaddr a7
  | .engine => True
  | .access => IsAccess i
  | .opened _ _ => i = .openBus ∧ s.isOpen = false
  | .closed => i = .closeBus

/-- What a command's plan may contain, whichever command it is. -/
theorem planOf_only (i : Instr) (s : State) : (planOf i s).Only (MayDo i s) (MayEndWith i s) := by
  have hset (p : Pin) (v : Level) : MayDo i s (.set p v) := trivial
  have hdir (d : Dir) : MayDo i s (.dir (activeWires s).sda d) := .inl rfl
  have hbit (k : Nat) : MayDo i s (.getBit (activeWires s).sda k) := trivial
  cases i with
  | start => exact only_enginePlan trivial (forall_mem_startOps _ hset) trivial
  | restart => exact only_enginePlan trivial (forall_mem_restartOps _ hset) trivial
  | stop => exact only_enginePlan trivial (forall_mem_stopOps _ hset) trivial
  | ack => exact only_enginePlan trivial (forall_mem_ackOps _ hset) trivial
  | send b =>
    exact only_enginePlan trivial (forall_mem_sendOps _ b _ hset hdir (.inl ⟨b, rfl⟩) (.inl ⟨b, rfl⟩)) trivial
  | recv => exact only_enginePlan trivial (forall_mem_recvOps _ _ hset rfl hbit (.inl ⟨rfl, rfl⟩)) trivial
  | setaddr a7 =>
    simp only [planOf, planSetAddr]
    split
    · exact only_planDone rfl
    · exact only_planDone trivial
  | accessW size len cmdb =>
    have haccess : IsAccess (.accessW size len cmdb) := ⟨size, len, cmdb, .inl rfl⟩
    simp only [planOf, planAccessW]
    split
    · exact only_planDone trivial
    · split
      · trivial
      · exact ⟨List.forall_mem_append.mpr ⟨forall_mem_accessWriteBody _ _ _ _ hset hdir (.inr haccess)
          (fun _ => .inr haccess), forall_mem_stopOps _ hset⟩, haccess⟩
  | accessR size len cmdb =>
    have haccess : IsAccess (.accessR size len cmdb) := ⟨size, len, cmdb, .inr rfl⟩
    have hheader := forall_mem_readHeaderOps (activeWires s) (addrWriteByte s) (addrReadByte s) cmdb
      (payloadLen size len) hset hdir (.inr haccess) (fun _ => .inr haccess)
    have hdata := forall_mem_readBytesOps (activeWires s) 0 (payloadLen size len) hset rfl hbit
      (fun j hj => .inr ⟨size, len, cmdb, j, rfl, by omega, rfl⟩)
    simp only [planOf, planAccessR]
    split
    · exact only_planDone trivial
    · rw [accessReadBody_eq]
      exact ⟨List.forall_mem_append.mpr ⟨List.forall_mem_append.mpr ⟨hheader, hdata⟩, forall_mem_stopOps _ hset⟩,
        haccess⟩
  | openBus =>
    simp only [planOf, planOpen]
    split
    · exact only_planDone trivial
    · rename_i hopen
      have hclosed : s.isOpen = false := by simpa using hopen
      split
      · exact only_planDone trivial
      · exact only_run_nil (by simp [openOps, MayDo, hclosed]) ⟨rfl, hclosed⟩
  | closeBus =>
    refine only_run_nil ?_ rfl
    split
    · simp [closeOps, MayDo]
    · simp

-- ## The induction over a whole command

section
variable {P : PinOp → Prop} {Q : Completion → Prop} {R : State → Prop}

theorem runBody_induction (hop : ∀ op u, P op → R u → R (doOp op u)) {ops : List PinOp} (hops : ∀ op ∈ ops, P op)
    {s : State} (hs : R s) : R (runBody ops s) := by
  induction ops generalizing s with
  | nil => exact hs
  | cons op rest ih =>
    rw [List.forall_mem_cons] at hops
    have hfirst := hop op s hops.1 hs
    simp only [runBody]
    split
    · exact hfirst
    · exact ih hops.2 hfirst

theorem runTail_induction (hop : ∀ op u, P op → R u → R (doOp op u)) {ops : List PinOp} (hops : ∀ op ∈ ops, P op)
    {s : State} (hs : R s) : R (runTail ops s) := by
  induction ops generalizing s with
  | nil => exact hs
  | cons op rest ih =>
    rw [List.forall_mem_cons] at hops
    exact ih hops.2 (hop op s hops.1 hs)

theorem runPlan_induction (hop : ∀ op u, P op → R u → R (doOp op u))
    (hfin : ∀ fin u, Q fin → R u → R (complete fin u)) {p : Plan} (hp : p.Only P Q) {s : State}
    (hs : R { s with loc := Locals.init }) (hfault : ∀ r, R (abandon r s)) : R (runPlan p s) := by
  cases p with
  | run body tail fin =>
    obtain ⟨hops, hq⟩ := hp
    obtain ⟨hbody, htail⟩ := List.forall_mem_append.mp hops
    exact hfin fin _ hq (runTail_induction hop htail (runBody_induction hop hbody hs))
  | fault r => exact hfault r

/-- What every operation a command may do keeps, and every completion step it may end with, the command keeps. -/
theorem exec_induction {i : Instr} {s t : State} (h : exec i s = .next t)
    (hop : ∀ op u, MayDo i s op → R u → R (doOp op u)) (hfin : ∀ fin u, MayEndWith i s fin → R u → R (complete fin u))
    (hs : R { s with loc := Locals.init }) (hfault : ∀ r, R (abandon r s)) : R t := by
  rw [exec_eq] at h
  cases h
  exact runPlan_induction hop hfin (planOf_only i s) hs hfault
end

-- ## Which command writes which register

section
variable {i : Instr} {s t : State} (h : exec i s = .next t)
include h

theorem exec_nphase_xcount (hi : ¬ IsAccess i) : t.nphase = s.nphase ∧ t.xcount = s.xcount := by
  refine exec_induction (R := fun u => u.nphase = s.nphase ∧ u.xcount = s.xcount) h (fun op u _ hu => by simpa using hu)
    (fun fin u hfin hu => ?_) ⟨rfl, rfl⟩ (fun _ => ⟨rfl, rfl⟩)
  have hne : fin ≠ .access := fun heq => hi (heq ▸ hfin :)
  exact ⟨(commit_nphase_xcount hne).1.trans hu.1, (commit_nphase_xcount hne).2.trans hu.2⟩

/-- A command that has no `Send` keeps NACK: no acknowledge bit is sampled (R69). -/
theorem exec_nack (hi : ¬ IsAccess i) (hsend : ∀ b, i ≠ .send b) : t.nack = s.nack := by
  refine (exec_induction (R := fun u => u.loc.ack = none ∧ u.nack = s.nack) h (fun op u hop hu => ?_)
    (fun fin u _ hu => ⟨rfl, (commit_nack hu.1).trans hu.2⟩) ⟨rfl, rfl⟩ (fun _ => ⟨rfl, rfl⟩)).2
  have hne (p : Pin) : op ≠ .getAck p := by
    rintro rfl
    exact hop.elim (fun ⟨b, hb⟩ => hsend b hb) hi
  exact ⟨(doOp_ack u hne).trans hu.1, (doOp_nack op u).trans hu.2⟩

/-- A command that has no `Recv` keeps RXDATA: no byte is received (R70). -/
theorem exec_rxbyte (hrecv : i ≠ .recv) (hread : ∀ size len c, i ≠ .accessR size len c) : t.rxbyte = s.rxbyte := by
  refine (exec_induction (R := fun u => u.loc.rx = none ∧ u.rxbyte = s.rxbyte) h (fun op u hop hu => ?_)
    (fun fin u _ hu => ⟨rfl, (commit_rxbyte hu.1).trans hu.2⟩) ⟨rfl, rfl⟩ (fun _ => ⟨rfl, rfl⟩)).2
  have hne (p : Pin) (dst : Option (BitVec 8)) : op ≠ .endRecv p dst := by
    rintro rfl
    obtain ⟨hi, -⟩ | ⟨size, len, c, -, hi, -⟩ := hop
    · exact hrecv hi
    · exact hread size len c hi
  exact ⟨(doOp_rx u hne).trans hu.1, (doOp_rxbyte op u).trans hu.2⟩

theorem exec_saddr (hclose : i ≠ .closeBus) (hset : ∀ a, i ≠ .setaddr a) : t.saddr = s.saddr := by
  refine exec_induction (R := fun u => u.saddr = s.saddr) h (fun op u _ hu => (doOp_saddr op u).trans hu)
    (fun fin u hfin hu => ?_) rfl (fun _ => rfl)
  have hclosed : fin ≠ .closed := fun heq => hclose (heq ▸ hfin :)
  have hsetAddr (a : BitVec 7) : fin ≠ .setAddr a := fun heq => hset a (heq ▸ hfin :)
  exact (commit_saddr (s := u) hsetAddr hclosed).trans hu

theorem exec_isOpen_act (hopen : i ≠ .openBus) (hclose : i ≠ .closeBus) :
    t.isOpen = s.isOpen ∧ t.actScl = s.actScl ∧ t.actSda = s.actSda := by
  refine exec_induction (R := fun u => u.isOpen = s.isOpen ∧ u.actScl = s.actScl ∧ u.actSda = s.actSda) h
    (fun op u _ hu => by simpa using hu) ?_ ⟨rfl, rfl, rfl⟩ (fun _ => ⟨rfl, rfl, rfl⟩)
  rintro fin u hfin ⟨huOpen, huScl, huSda⟩
  have hopened (c d : PinNum) : fin ≠ .opened c d := fun heq => hopen (heq ▸ hfin : MayEndWith i s (.opened c d)).1
  have hclosed : fin ≠ .closed := fun heq => hclose (heq ▸ hfin :)
  obtain ⟨hisOpen, hscl, hsda, -⟩ := commit_isOpen_act (s := u) hopened hclosed
  exact ⟨hisOpen.trans huOpen, hscl.trans huScl, hsda.trans huSda⟩

/-- No command writes PINCFG or CUR, makes a host access, or takes one back (R21). -/
theorem exec_keeps : t.cfgScl = s.cfgScl ∧ t.cfgSda = s.cfgSda ∧ t.cur = s.cur ∧ t.host = s.host ∧ t.reads = s.reads ∧
    t.readDraws = s.readDraws := by
  refine exec_induction (R := fun u => u.cfgScl = s.cfgScl ∧ u.cfgSda = s.cfgSda ∧ u.cur = s.cur ∧ u.host = s.host ∧
    u.reads = s.reads ∧ u.readDraws = s.readDraws) h (fun op u _ hu => by simpa using hu) (fun fin u _ hu => ?_)
    ⟨rfl, rfl, rfl, rfl, rfl, rfl⟩ (fun _ => ⟨rfl, rfl, rfl, rfl, rfl, rfl⟩)
  obtain ⟨-, -, -, hscl, hsda, hcur, hhost, hreads, hdraws, -⟩ := commit_keeps fin u
  simpa [complete, hscl, hsda, hcur, hhost, hreads, hdraws] using hu
end

/-- Settles O32: register by register, by what the command's plan may contain. -/
theorem commandsWriteOnlyTheirRegisters : Obligations.CommandsWriteOnlyTheirRegisters := by
  intro s t i h
  exact ⟨exec_nphase_xcount h, exec_nack h, exec_rxbyte h, exec_saddr h, exec_isOpen_act h, exec_keeps h⟩

end Sys2Proof.Machine

/-! PROOFS. The engine one step at a time (R8, R17): what one step can do, how many steps a command takes, and where
they lead. -/

namespace Sys2Proof.Machine

-- ## What one engine step can do

/-- A step of a plan: the next operation, with less to do and the same end, or the completion step (R17). -/
theorem advance_cases (body tail : List PinOp) (fin : Completion) (s : State) :
    (∃ op b t, advance body tail fin s = { doOp op s with seq := .running b t fin } ∧
      (∀ o ∈ op :: (b ++ t), o ∈ body ++ tail) ∧ b.length + t.length < body.length + tail.length ∧
      finish b t fin (doOp op s) = finish body tail fin s) ∨
    (advance body tail fin s = complete fin s ∧ body = [] ∧ tail = []) := by
  cases body with
  | cons op rest =>
    by_cases habort : (doOp op s).loc.abort = true
    · refine .inl ⟨op, [], tail, by simp [advance, habort], fun o ho => ?_, by simp, by
        simp [finish, runBody, habort]⟩
      simp only [List.nil_append, List.mem_cons] at ho
      simp only [List.cons_append, List.mem_cons, List.mem_append]
      exact ho.imp_right .inr
    · exact .inl ⟨op, rest, tail, by simp [advance, habort], fun o ho => ho, by simp, by
        simp [finish, runBody, habort]⟩
  | nil =>
    cases tail with
    | cons op rest => exact .inl ⟨op, [], rest, rfl, fun o ho => ho, by simp, rfl⟩
    | nil => exact .inr ⟨rfl, rfl, rfl⟩

/-- Everything an engine step can do: nothing at rest, else one pin operation, the completion step, or a model fault. -/
theorem engineStep_cases (s : State) :
    (s.seq = .idle ∧ engineStep s = s) ∨
    ∃ l, (∃ op q, engineStep s = { doOp op (setLoc l s) with seq := q }) ∨
      (∃ fin, engineStep s = complete fin (setLoc l s)) ∨ ∃ r, engineStep s = abandon r s := by
  have hadvance (l : Locals) (body tail : List PinOp) (fin : Completion) :
      (∃ op q, advance body tail fin (setLoc l s) = { doOp op (setLoc l s) with seq := q }) ∨
        ∃ fin', advance body tail fin (setLoc l s) = complete fin' (setLoc l s) := by
    obtain ⟨op, b, t, h, -⟩ | ⟨h, -⟩ := advance_cases body tail fin (setLoc l s)
    · exact .inl ⟨op, _, h⟩
    · exact .inr ⟨fin, h⟩
  cases hq : s.seq with
  | idle => exact .inl ⟨rfl, by simp only [engineStep, hq]⟩
  | start =>
    simp only [engineStep, hq]
    cases planCur s with
    | run body tail fin => exact .inr ⟨Locals.init, (hadvance Locals.init body tail fin).imp_right .inl⟩
    | fault r => exact .inr ⟨Locals.init, .inr (.inr ⟨r, rfl⟩)⟩
  | running body tail fin =>
    simp only [engineStep, hq]
    exact .inr ⟨s.loc, (hadvance s.loc body tail fin).imp_right .inl⟩

@[simp] theorem complete_trace (fin : Completion) (s : State) : (complete fin s).trace = s.trace :=
  (commit_keeps fin s).1

/-- Settles O10: a step that leaves BUSY = 1 is one pin operation, and the others issue no event. -/
theorem engineStepIssuesOneEvent : Obligations.EngineStepIssuesOneEvent := by
  intro s hb hq
  obtain ⟨hidle, -⟩ | ⟨l, ⟨op, q, h⟩ | ⟨fin, h⟩ | ⟨r, h⟩⟩ := engineStep_cases s
  · exact absurd hidle hq
  · rw [h]
    refine ⟨fun _ => ⟨doOp_trace op _, by simp⟩, fun hdone => ?_⟩
    simp [hb] at hdone
  · rw [h]
    exact ⟨fun hbusy => Bool.noConfusion hbusy, fun _ => complete_trace fin _⟩
  · rw [h]
    exact ⟨fun hbusy => Bool.noConfusion hbusy, fun _ => rfl⟩

-- ## Running all the operations of a plan

/-- A change outside the parts the operations work on, made before them or after them, is the same change. -/
theorem runOps_comm {f : State → State} (hf : ∀ k u, f (graft k u) = graft (f k) u) (body tail : List PinOp)
    (s : State) : runTail tail (runBody body (f s)) = f (runTail tail (runBody body s)) := by
  have hgraft (k : State) : runTail tail (runBody body (graft k s)) = graft k (runTail tail (runBody body s)) := by
    rw [runBody_graft, runTail_graft]
  calc runTail tail (runBody body (f s))
      = runTail tail (runBody body (graft (f s) s)) := by rw [← hf, graft_self]
    _ = graft (f s) (runTail tail (runBody body s)) := hgraft (f s)
    _ = f (graft s (runTail tail (runBody body s))) := (hf s _).symm
    _ = f (runTail tail (runBody body s)) := by rw [← hgraft s, graft_self]

/-- SEQ has no part in the rest of a command but its own position. -/
theorem finish_setSeq (body tail : List PinOp) (fin : Completion) (q : EngineSeq) (s : State) :
    finish body tail fin { s with seq := q } = finish body tail fin s := by
  have hcomplete (u : State) : complete fin { u with seq := q } = complete fin u := by
    cases fin with
    | opened c d => simp only [complete, commit, commitOpen]; split <;> rfl
    | _ => rfl
  rw [finish, runOps_comm (f := fun u => { u with seq := q }) (fun _ _ => rfl), hcomplete]
  rfl

-- ## How many steps a command takes

/-- After the first step of a plan at most one step for each operation is left, and it leads to the plan's end. -/
theorem engineSteps_advance (body tail : List PinOp) (fin : Completion) (s : State) (hb : s.busy = true) :
    ∃ n, n ≤ body.length + tail.length ∧ engineSteps n (advance body tail fin s) = finish body tail fin s ∧
      ∀ m, m < n → (engineSteps m (advance body tail fin s)).busy = true := by
  induction hlen : body.length + tail.length using Nat.strong_induction_on generalizing body tail s with
  | _ len ih =>
    obtain ⟨op, b, t, h, -, hless, hfinish⟩ | ⟨h, rfl, rfl⟩ := advance_cases body tail fin s
    · have hbusy : (advance body tail fin s).busy = true := by rw [h]; exact (doOp_busy op s).trans hb
      have hnext : engineStep (advance body tail fin s) = advance b t fin (advance body tail fin s) := by
        conv_lhs => rw [h]
        rw [h]
        rfl
      obtain ⟨n, hn, hend, hrun⟩ := ih _ (hlen ▸ hless) b t (advance body tail fin s) hbusy rfl
      refine ⟨n + 1, by omega, ?_, fun m hm => ?_⟩
      · rw [engineSteps, hnext, hend, h, finish_setSeq, hfinish]
      · cases m with
        | zero => exact hbusy
        | succ m =>
          rw [engineSteps, hnext]
          exact hrun m (by omega)
    · exact ⟨0, Nat.zero_le _, h, fun m hm => absurd hm (Nat.not_lt_zero m)⟩

@[simp] theorem length_startOps (w : Wires) : (startOps w).length = 2 := rfl

@[simp] theorem length_restartOps (w : Wires) : (restartOps w).length = 4 := rfl

@[simp] theorem length_stopOps (w : Wires) : (stopOps w).length = 2 := rfl

@[simp] theorem length_ackOps (w : Wires) : (ackOps w).length = 4 := rfl

@[simp] theorem length_sendOps (w : Wires) (b : Byte) (role : SendRole) : (sendOps w b role).length = 29 := rfl

@[simp] theorem length_recvOps (w : Wires) (dst : Option (BitVec 8)) : (recvOps w dst).length = 26 := rfl

theorem length_readBytesOps (w : Wires) (i n : Nat) : (readBytesOps w i n).length ≤ 30 * n - 4 := by
  induction i, n using readBytesOps.induct with
  | case1 i => simp [readBytesOps]
  | case2 i => simp [readBytesOps]
  | case3 i k ih =>
    simp only [readBytesOps, List.length_append, length_recvOps, length_ackOps]
    omega

theorem payloadLen_le (size : SizeClass) (len : BitVec 8) : payloadLen size len ≤ 255 := by
  cases size with
  | block => exact Nat.le_of_lt_succ len.isLt
  | _ => simp [payloadLen]

theorem length_of_payloadFrom {m : Memory} {i n : Nat} {bytes : List Byte} (h : payloadFrom m i n = some bytes) :
    bytes.length = n := by
  induction n generalizing i bytes with
  | zero =>
    cases h
    rfl
  | succ n ih =>
    rw [payloadFrom] at h
    split at h
    · rename_i hrest
      cases h
      rw [List.length_cons, ih hrest]
    · cases h

theorem length_accessWriteBody (w : Wires) (aw cmdb : Byte) (bytes : List Byte) :
    (accessWriteBody w aw cmdb bytes).length ≤ 60 + 29 * bytes.length := by
  simp only [accessWriteBody, List.length_append, length_startOps, length_sendOps]
  split
  · rw [List.length_nil]
    omega
  · simp only [List.length_append, length_sendOps, List.length_flatMap, List.map_const', List.sum_replicate,
      smul_eq_mul]
    omega

theorem length_accessReadBody (w : Wires) (aw ar cmdb : Byte) (len : Nat) :
    (accessReadBody w aw ar cmdb len).length ≤ 93 + (30 * len - 4) := by
  have hread := length_readBytesOps w 0 len
  simp only [accessReadBody, List.length_append, length_startOps, length_sendOps, length_restartOps]
  split
  · rw [List.length_nil]
    omega
  · rw [length_sendOps]
    omega

/-- The operations a plan may run. -/
def Plan.length (p : Plan) : Nat :=
  match p with
  | .run body tail _ => body.length + tail.length
  | .fault _ => 0

theorem length_enginePlan (e : Err) (ops : List PinOp) (s : State) : (enginePlan e ops s).length ≤ ops.length := by
  unfold enginePlan
  split
  · exact Nat.zero_le _
  · exact Nat.le_refl _

/-- No command has more than 7741 pin operations: an ACCESS.R of 255 bytes has the most (60_exceptions.md R101). -/
theorem length_planOf (i : Instr) (s : State) : (planOf i s).length ≤ 7741 := by
  cases i with
  | start => exact (length_enginePlan _ _ s).trans (by simp)
  | restart => exact (length_enginePlan _ _ s).trans (by simp)
  | stop => exact (length_enginePlan _ _ s).trans (by simp)
  | send b => exact (length_enginePlan _ _ s).trans (by simp)
  | recv => exact (length_enginePlan _ _ s).trans (by simp)
  | ack => exact (length_enginePlan _ _ s).trans (by simp)
  | setaddr a7 =>
    simp only [planOf, planSetAddr]
    split <;> exact Nat.zero_le _
  | accessW size len cmdb =>
    have hlen := payloadLen_le size len
    simp only [planOf, planAccessW]
    split
    · exact Nat.zero_le _
    · split
      · exact Nat.zero_le _
      · rename_i bytes hbytes
        have hbytes : bytes.length = payloadLen size len := length_of_payloadFrom hbytes
        have hbody := length_accessWriteBody (activeWires s) (addrWriteByte s) cmdb bytes
        simp only [Plan.length, length_stopOps]
        omega
  | accessR size len cmdb =>
    have hlen := payloadLen_le size len
    simp only [planOf, planAccessR]
    split
    · exact Nat.zero_le _
    · have hbody := length_accessReadBody (activeWires s) (addrWriteByte s) (addrReadByte s) cmdb (payloadLen size len)
      simp only [Plan.length, length_stopOps]
      omega
  | openBus =>
    simp only [planOf, planOpen]
    split
    · exact Nat.zero_le _
    · split <;> simp [Plan.length, planDone, openOps]
  | closeBus =>
    simp only [planOf, planClose]
    split <;> simp [Plan.length, closeOps]

/-- The engine's first step of a command begins its plan (R17). -/
theorem engineStep_of_start {s : State} {i : Instr} (hq : s.seq = .start) (hd : decode s.cur = .ok i) :
    engineStep s = beginPlan (planOf i s) s := by
  simp only [engineStep, hq, planCur, hd]

/-- The engine's steps through a plan reach what running it gives, with BUSY = 1 until then. -/
theorem engineSteps_beginPlan (p : Plan) (s : State) (hb : s.busy = true) :
    ∃ n, n ≤ p.length ∧ engineSteps n (beginPlan p s) = runPlan p s ∧
      ∀ m, m < n → (engineSteps m (beginPlan p s)).busy = true := by
  cases p with
  | run body tail fin => exact engineSteps_advance body tail fin _ hb
  | fault r => exact ⟨0, Nat.le_refl 0, rfl, fun m hm => absurd hm (Nat.not_lt_zero m)⟩

/-- Settles O11: the first step begins the plan, and the steps after it are as many as the operations left. -/
theorem engineStepsReachExec : Obligations.EngineStepsReachExec := by
  intro s i hb hq hd
  have hfirst := engineStep_of_start hq hd
  have hbound := length_planOf i s
  obtain ⟨n, hn, hend, hrun⟩ := engineSteps_beginPlan (planOf i s) s hb
  refine ⟨n + 1, by omega, by omega, ?_, fun m hm => ?_⟩
  · rw [exec_eq, engineSteps, hfirst, hend]
  · cases m with
    | zero => exact hb
    | succ m =>
      rw [engineSteps, hfirst]
      exact hrun m (by omega)

-- ## The direction of SCL (R29)

/-- With a bus open no operation of a command turns SCL around. -/
theorem doOp_sclDir {i : Instr} {s : State} {op : PinOp} (hop : MayDo i s op) (hopen : s.isOpen = true) {u : State}
    (hu : u.pins.sclDir = .out) : (doOp op u).pins.sclDir = .out := by
  cases op with
  | set p v => cases hp : p.line <;> simpa [doOp, Pins.setLatch, hp] using hu
  | dir p d =>
    obtain hp | ⟨-, hclosed⟩ := hop
    · cases d <;> simpa [doOp, Pins.setDir, hp] using hu
    · simp [hopen] at hclosed
  | getAck p => simpa [doOp] using hu
  | endSend p role => cases hp : p.line <;> simpa [doOp, Pins.setLatch, hp] using hu
  | beginRecv p =>
    have hp : p.line = .sda := hop
    simpa [doOp, Pins.setDir, hp] using hu
  | getBit p k => simpa [doOp] using hu
  | endRecv p dst =>
    have hpins : (doOp (.endRecv p dst) u).pins = u.pins.setDir Config.sdaOutOnRedirect p.line .out := by
      cases dst <;> rfl
    rw [hpins]
    cases p.line with
    | scl => rfl
    | sda => exact hu
  | exportPin p =>
    obtain ⟨-, hclosed⟩ := hop
    simp [hopen] at hclosed
  | unexportPin p => exact hu

/-- With a bus open no completion step but CLOSE's writes the pins. -/
theorem complete_sclDir {i : Instr} {s : State} {fin : Completion} (hfin : MayEndWith i s fin) (hopen : s.isOpen = true)
    (hi : i ≠ .closeBus) {u : State} (hu : u.pins.sclDir = .out) : (complete fin u).pins.sclDir = .out := by
  have hopened (c d : PinNum) : fin ≠ .opened c d := by
    rintro rfl
    simp [hopen, MayEndWith] at hfin
  have hclosed : fin ≠ .closed := by
    rintro rfl
    exact hi hfin
  obtain ⟨-, -, -, hpins⟩ := commit_isOpen_act (s := u) hopened hclosed
  simpa [complete, hpins] using hu

/-- SCL is an output, and the operations the engine still has to do are among those command `i` may do from `s`. -/
def ClockHeld (i : Instr) (s u : State) : Prop :=
  u.pins.sclDir = .out ∧ match u.seq with
    | .idle => True
    | .start => False
    | .running body tail fin => (Plan.run body tail fin).Only (MayDo i s) (MayEndWith i s)

section
variable {i : Instr} {s u : State} (hopen : s.isOpen = true) (hi : i ≠ .closeBus)
include hopen hi

theorem clockHeld_advance {body tail : List PinOp} {fin : Completion}
    (hp : (Plan.run body tail fin).Only (MayDo i s) (MayEndWith i s)) (hu : u.pins.sclDir = .out) :
    ClockHeld i s (advance body tail fin u) := by
  obtain ⟨hops, hfin⟩ := hp
  obtain ⟨op, b, t, h, hsub, -⟩ | ⟨h, -⟩ := advance_cases body tail fin u
  · rw [h]
    exact ⟨doOp_sclDir (hops op (hsub op (by simp))) hopen hu,
      fun o ho => hops o (hsub o (List.mem_cons_of_mem op ho)), hfin⟩
  · rw [h]
    exact ⟨complete_sclDir hfin hopen hi hu, trivial⟩

theorem clockHeld_engineStep (h : ClockHeld i s u) : ClockHeld i s (engineStep u) := by
  obtain ⟨hu, hseq⟩ := h
  cases hq : u.seq with
  | idle =>
    simp only [engineStep, hq]
    exact ⟨hu, by simp only [hq]⟩
  | start => simp only [hq] at hseq
  | running body tail fin =>
    simp only [engineStep, hq] at hseq ⊢
    exact clockHeld_advance hopen hi hseq hu

theorem clockHeld_engineSteps (n : Nat) (h : ClockHeld i s u) : ClockHeld i s (engineSteps n u) := by
  induction n generalizing u with
  | zero => exact h
  | succ n ih => exact ih (clockHeld_engineStep hopen hi h)

theorem clockHeld_beginPlan (hs : s.pins.sclDir = .out) : ClockHeld i s (beginPlan (planOf i s) s) := by
  have hp := planOf_only i s
  cases hplan : planOf i s with
  | run body tail fin =>
    rw [hplan] at hp
    exact clockHeld_advance hopen hi hp hs
  | fault r => exact ⟨hs, trivial⟩
end

/-- Settles O35: the first step begins the plan with SCL an output, and every step after it keeps it one. -/
theorem clockPinStaysAnOutput : Obligations.ClockPinStaysAnOutput := by
  intro s i n hb hq hd hi hopen hs
  cases n with
  | zero => exact hs
  | succ n =>
    rw [engineSteps, engineStep_of_start hq hd]
    obtain ⟨hscl, -⟩ := clockHeld_engineSteps hopen hi n (clockHeld_beginPlan hopen hi hs)
    exact hscl

end Sys2Proof.Machine

/-! PROOFS. TRACE, the fault mark, DATA and the flags through whole commands and steps (R28, R35, R37, R38). -/

namespace Sys2Proof.Machine

open Claims (IsAccess)

-- ## TRACE only grows (R35)

/-- Nothing of the trace is removed or reordered. -/
def TraceExtends (s t : State) : Prop := ∃ es, t.trace = s.trace ++ es

theorem traceExtends_of_eq {s t : State} (h : t.trace = s.trace) : TraceExtends s t := ⟨[], by simp [h]⟩

theorem finish_traceExtends (body tail : List PinOp) (fin : Completion) (s : State) :
    TraceExtends s (finish body tail fin s) := by
  obtain ⟨es, hbody, -⟩ := runBody_trace body s
  obtain ⟨fs, htail, -⟩ := runTail_trace tail (runBody body s)
  exact ⟨es ++ fs, by rw [finish, complete_trace, htail, hbody, List.append_assoc]⟩

theorem runPlan_traceExtends (p : Plan) (s : State) : TraceExtends s (runPlan p s) := by
  cases p with
  | run body tail fin => exact finish_traceExtends body tail fin { s with loc := Locals.init }
  | fault r => exact traceExtends_of_eq rfl

theorem runToCompletion_traceExtends {s t : State} (h : runToCompletion s = .next t) : TraceExtends s t := by
  rw [runToCompletion_eq] at h
  cases h
  split
  · exact traceExtends_of_eq rfl
  · exact runPlan_traceExtends _ s
  · exact finish_traceExtends _ _ _ s

theorem engineStep_traceExtends (s : State) : TraceExtends s (engineStep s) := by
  obtain ⟨-, h⟩ | ⟨l, ⟨op, q, h⟩ | ⟨fin, h⟩ | ⟨r, h⟩⟩ := engineStep_cases s
  · exact traceExtends_of_eq (by rw [h])
  · obtain ⟨e, he⟩ := doOp_trace op (setLoc l s)
    exact ⟨[e], by rw [h]; exact he⟩
  · exact traceExtends_of_eq (by rw [h, complete_trace, setLoc_trace])
  · exact traceExtends_of_eq (by rw [h]; rfl)

theorem hostWrite_trace (off bytes : Nat) (v : Word) (s : State) : (hostWrite off bytes v s).trace = s.trace := by
  obtain h | ⟨r, h⟩ | ⟨-, -, -, h⟩ := hostWrite_cases off bytes v s
  · rw [h]
  · rw [h, markFault_trace]
  · rw [h]
    obtain ⟨-, h⟩ | h | h | h := storeWord_cases off v s <;> rw [h]
    rfl

theorem hostRead_trace (off bytes : Nat) (s : State) : (hostRead off bytes s).trace = s.trace := by
  obtain ⟨v, h⟩ | h | ⟨r, h⟩ := hostRead_cases off bytes s
  · rw [h, returnRead_trace]
  · rw [h, returnFree_trace]
  · rw [h, markFault_trace]

theorem hostReadIfOk_trace (off : Nat) (s : State) : (hostReadIfOk off s).trace = s.trace := by
  obtain h | h := hostReadIfOk_cases off s
  · rw [h]
  · rw [h, hostRead_trace]

/-- Settles O36: the engine only appends, and no host access touches the trace. -/
theorem traceOnlyGrows : Obligations.TraceOnlyGrows := by
  intro s t h
  obtain ⟨-, -, -, rfl⟩ | ⟨-, hrun⟩ | ⟨-, a, rest, -, hturn⟩ := step_cases h
  · exact traceExtends_of_eq rfl
  · exact runToCompletion_traceExtends hrun
  · obtain ⟨off, bytes, v, -, rfl⟩ | ⟨off, bytes, -, rfl⟩ | ⟨off, -, rfl⟩ | ⟨-, -, rfl⟩ | ⟨-, rfl⟩ | ⟨-, rfl⟩ := hturn
    · exact traceExtends_of_eq (hostWrite_trace off bytes v (popHost s))
    · exact traceExtends_of_eq (hostRead_trace off bytes (popHost s))
    · exact traceExtends_of_eq (hostReadIfOk_trace off (popHost s))
    · exact traceExtends_of_eq rfl
    · exact engineStep_traceExtends (popHost s)
    · exact traceExtends_of_eq rfl

-- ## The fault mark stays (R38)

@[simp] theorem finish_faulted (body tail : List PinOp) (fin : Completion) (s : State) :
    (finish body tail fin s).faulted = s.faulted := by
  obtain ⟨-, -, -, -, -, -, -, -, -, hcommit⟩ := commit_keeps fin (runTail tail (runBody body s))
  calc (finish body tail fin s).faulted = (runTail tail (runBody body s)).faulted := hcommit
    _ = (runBody body s).faulted := by rw [runTail_frame]; rfl
    _ = s.faulted := by rw [runBody_frame]; rfl

/-- A command keeps a mark that is set. -/
theorem runPlan_faulted {s : State} {r : Fault} (p : Plan) (h : s.faulted = some r) :
    (runPlan p s).faulted = some r := by
  cases p with
  | run body tail fin => exact (finish_faulted body tail fin _).trans h
  | fault r' => simp [runPlan, abandon, h]

/-- Settles O49: a marked machine only runs its command on, and that keeps the mark. -/
theorem faultedIsNeverCleared : Obligations.FaultedIsNeverCleared := by
  intro s t r hf h
  obtain ⟨-, hunmarked, -⟩ | ⟨-, hrun⟩ | ⟨hunmarked, -⟩ := step_cases h
  · simp [hf] at hunmarked
  · rw [runToCompletion_eq] at hrun
    cases hrun
    split
    · exact hf
    · exact runPlan_faulted _ hf
    · exact (finish_faulted _ _ _ s).trans hf
  · simp [hf] at hunmarked

-- ## DATA (R37, R83)

@[simp] theorem complete_data (fin : Completion) (s : State) : (complete fin s).data = s.data := by
  obtain ⟨-, hdata, -⟩ := commit_keeps fin s
  exact hdata

/-- A command other than ACCESS.R stores no byte. -/
theorem exec_data {i : Instr} {s t : State} (h : exec i s = .next t) (hi : ∀ size len c, i ≠ .accessR size len c) :
    t.data = s.data := by
  refine exec_induction (R := fun u => u.data = s.data) h (fun op u hop hu => ?_)
    (fun fin u _ hu => (complete_data fin u).trans hu) rfl (fun _ => rfl)
  obtain hkeep | ⟨p, k, rfl, -⟩ := doOp_data op u
  · exact hkeep.trans hu
  · obtain ⟨-, hnone⟩ | ⟨size, len, c, -, hread, -⟩ := hop
    · cases hnone
    · exact absurd hread (hi size len c)

/-- ACCESS.R stores no byte from its payload length on. -/
theorem exec_accessR_data_above {size : SizeClass} {len c : BitVec 8} {s t : State}
    (h : exec (.accessR size len c) s = .next t) {a : Nat} (ha : payloadLen size len ≤ a) :
    memRead t.data a = memRead s.data a := by
  refine exec_induction (R := fun u => memRead u.data a = memRead s.data a) h (fun op u hop hu => ?_)
    (fun fin u _ hu => by rw [complete_data]; exact hu) rfl (fun _ => rfl)
  obtain hkeep | ⟨p, k, rfl, hstore⟩ := doOp_data op u
  · rw [hkeep, hu]
  · obtain ⟨hrecv, -⟩ | ⟨size', len', c', j, hread, hj, hk⟩ := hop
    · cases hrecv
    · cases hread
      cases hk
      have hindex : (BitVec.ofNat 8 j).toNat = j :=
        Nat.mod_eq_of_lt (by have := payloadLen_le size len; omega)
      rw [hstore, hindex, memRead_memWrite_other _ _ (by omega), hu]

/-- The operations before ACCESS.R's data phase store nothing, and set the phase only where they abort (R81, R83). -/
theorem runBody_readHeader (w : Wires) (aw ar cmdb : Byte) (len : Nat) {s : State} (hs : s.loc.phase = .none) :
    (runBody (readHeaderOps w aw ar cmdb len) s).data = s.data ∧
      ((runBody (readHeaderOps w aw ar cmdb len) s).loc.abort = false →
        (runBody (readHeaderOps w aw ar cmdb len) s).loc.phase = .none) := by
  refine ⟨?data, ?phase⟩
  case data =>
    refine runBody_induction (P := fun op => ∀ p i, op ≠ .endRecv p i) (R := fun u => u.data = s.data)
      (fun op u hop hu => ?_) (forall_mem_readHeaderOps w aw ar cmdb len (by simp) (by simp) (by simp) (by simp)) rfl
    obtain hkeep | ⟨p, k, heq, -⟩ := doOp_data op u
    · exact hkeep.trans hu
    · exact absurd heq (hop p (some k))
  case phase =>
    exact runBody_induction (P := fun _ => True) (R := fun u => u.loc.abort = false → u.loc.phase = .none)
      (fun op _ _ hu => doOp_phase_none op hu) (fun _ _ => trivial) (fun _ => hs)

/-- The data phase of ACCESS.R fails at nothing (R83). -/
theorem runBody_readBytes_phase (w : Wires) (i n : Nat) (s : State) :
    (runBody (readBytesOps w i n) s).loc.phase = s.loc.phase :=
  runBody_induction (P := fun op => ∀ p role, op ≠ .endSend p role) (R := fun u => u.loc.phase = s.loc.phase)
    (fun _ u hop hu => (doOp_phase u hop).trans hu)
    (forall_mem_readBytesOps w i n (by simp) (by simp) (by simp) (by simp)) rfl

/-- `Stop` stores nothing and keeps the phase (R68). -/
theorem runTail_stop_data_phase (w : Wires) (s : State) :
    (runTail (stopOps w) s).data = s.data ∧ (runTail (stopOps w) s).loc.phase = s.loc.phase := ⟨rfl, rfl⟩

/-- The body of ACCESS.R either stores nothing or ends on the way to `Finish` (R81, R83). -/
theorem runBody_accessRead (w : Wires) (aw ar cmdb : Byte) (len : Nat) {s : State} (hs : s.loc.phase = .none) :
    (runBody (accessReadBody w aw ar cmdb len) s).data = s.data ∨
      (runBody (accessReadBody w aw ar cmdb len) s).loc.phase = .none := by
  obtain ⟨hdata, hphase⟩ := runBody_readHeader w aw ar cmdb len hs
  rw [accessReadBody_eq, runBody_append]
  split
  · exact .inl hdata
  · rename_i hgoesOn
    refine .inr ((runBody_readBytes_phase w 0 len _).trans (hphase ?_))
    have hne : readHeaderOps w aw ar cmdb len ≠ [] := by simp [readHeaderOps, startOps]
    simpa [hne] using hgoesOn

/-- A failed ACCESS.R stores no byte (R83). -/
theorem exec_accessR_data_of_err {size : SizeClass} {len c : BitVec 8} {s t : State}
    (h : exec (.accessR size len c) s = .next t) (herr : t.err ≠ .none) : t.data = s.data := by
  rw [exec_eq] at h
  cases h
  simp only [planOf, planAccessR] at herr ⊢
  split
  · rfl
  · rename_i hpass
    rw [if_neg hpass] at herr
    simp only [runPlan, finish] at herr ⊢
    obtain ⟨hdata, hphase⟩ := runTail_stop_data_phase (activeWires s)
      (runBody (accessReadBody (activeWires s) (addrWriteByte s) (addrReadByte s) c (payloadLen size len))
        { s with loc := Locals.init })
    obtain hbody | hbody := runBody_accessRead (activeWires s) (addrWriteByte s) (addrReadByte s) c
      (payloadLen size len) (s := { s with loc := Locals.init }) rfl
    · rw [complete_data, hdata, hbody]
    · exact absurd (by simp [complete, commit, commitAccess, hphase, hbody]) herr

/-- Settles O33: by the operations that store, and by where the phase is set. -/
theorem onlyAccessReadWritesData : Obligations.OnlyAccessReadWritesData := by
  intro s t i h
  refine ⟨exec_data h, ?_⟩
  rintro size len c rfl
  exact ⟨fun a ha => exec_accessR_data_above h ha, exec_accessR_data_of_err h⟩

-- ## The flags of an earlier command (R28)

/-- The state with other values of NACK, ERR and NPHASE. -/
def setFlags (n : Level) (e : Err) (p : Phase) (s : State) : State := { s with nack := n, err := e, nphase := p }

/-- No plan reads a flag. -/
theorem planOf_setFlags (i : Instr) (n : Level) (e : Err) (p : Phase) (s : State) :
    planOf i (setFlags n e p s) = planOf i s := by cases i <;> rfl

/-- A completion step writes ERR whatever the flags were; NACK too where a bit was sampled, and an ACCESS NPHASE. -/
theorem complete_setFlags (fin : Completion) (n : Level) (e : Err) (p : Phase) (s : State) :
    ∃ n' p', complete fin (setFlags n e p s) = setFlags n' (complete fin s).err p' (complete fin s) ∧
      (fin = .engine ∨ fin = .access → s.loc.ack ≠ none → n' = (complete fin s).nack) ∧
      (fin = .access → p' = (complete fin s).nphase) := by
  have hack (h : s.loc.ack ≠ none) (m : Level) : s.loc.ack.getD n = s.loc.ack.getD m := by
    cases hs : s.loc.ack with
    | none => exact absurd hs h
    | some a => rfl
  cases fin with
  | report e' => exact ⟨n, p, rfl, by simp, by simp⟩
  | setAddr a7 => exact ⟨n, p, rfl, by simp, by simp⟩
  | engine => exact ⟨_, p, rfl, fun _ h => hack h s.nack, by simp⟩
  | access => exact ⟨_, s.loc.phase, rfl, fun _ h => hack h s.nack, fun _ => rfl⟩
  | opened c d =>
    refine ⟨n, p, ?_, by simp, by simp⟩
    cases hfailed : s.loc.failed <;> simp [complete, commit, commitOpen, setFlags, toIdle, hfailed]
  | closed => exact ⟨n, p, rfl, by simp, by simp⟩

/-- From other flags a command does the same, but for the flags it ends with: ERR where it met no model fault, NACK
where an acknowledge bit was sampled, and NPHASE for an ACCESS, are the same again. -/
theorem runPlan_setFlags (pl : Plan) (n : Level) (e : Err) (p : Phase) (s : State) :
    ∃ n' e' p', runPlan pl (setFlags n e p s) = setFlags n' e' p' (runPlan pl s) ∧
      ((runPlan pl s).faulted = none → e' = (runPlan pl s).err) ∧
      ∀ body tail fin, pl = .run body tail fin →
        (fin = .engine ∨ fin = .access →
          (runTail tail (runBody body { s with loc := Locals.init })).loc.ack ≠ none → n' = (runPlan pl s).nack) ∧
        (fin = .access → p' = (runPlan pl s).nphase) := by
  cases pl with
  | run body tail fin =>
    have hrun := runOps_comm (f := setFlags n e p) (fun _ _ => rfl) body tail { s with loc := Locals.init }
    obtain ⟨n', p', hend, hnack, hphase⟩ :=
      complete_setFlags fin n e p (runTail tail (runBody body { s with loc := Locals.init }))
    refine ⟨n', _, p', (congrArg (complete fin) hrun).trans hend, fun _ => rfl, ?_⟩
    rintro _ _ _ ⟨⟩
    exact ⟨hnack, hphase⟩
  | fault r => exact ⟨n, e, p, rfl, fun hunmarked => by simp [runPlan, abandon] at hunmarked, by simp⟩

-- ## Which commands sample an acknowledge bit

/-- A body that begins with a `Send` leaves an acknowledge bit (R69). -/
theorem ack_ne_none_of_send (c d : PinNum) (b : Byte) (role : SendRole) (rest tail : List PinOp) {s : State}
    (hs : s.loc.abort = false) :
    (runTail tail (runBody (sendOps (wiresOf c d) b role ++ rest) s)).loc.ack ≠ none := by
  have hkeep (op : PinOp) (u : State) (_ : True) (hu : u.loc.ack ≠ none) := doOp_ack_ne_none op hu
  have hsend : (runBody (sendOps (wiresOf c d) b role) s).loc.ack ≠ none := by
    rw [runBody_send c d s b role hs, withParts_loc, Locals.afterSend]
    split <;> split <;> simp
  refine runTail_induction hkeep (fun _ _ => trivial) ?_
  rw [runBody_append]
  split
  · exact hsend
  · exact runBody_induction hkeep (fun _ _ => trivial) hsend

/-- A body that begins with `Start` and a `Send`, as every ACCESS does, leaves an acknowledge bit (R81). -/
theorem ack_ne_none_of_start_send (c d : PinNum) (b : Byte) (role : SendRole) (rest tail : List PinOp) {s : State}
    (hs : s.loc.abort = false) :
    (runTail tail (runBody (startOps (wiresOf c d) ++ sendOps (wiresOf c d) b role ++ rest) s)).loc.ack ≠ none := by
  have hstart := runBody_start c d s hs
  have habort : (runBody (startOps (wiresOf c d)) s).loc.abort = false := by rw [hstart]; exact hs
  rw [List.append_assoc, runBody_append, if_neg (by simp [habort])]
  exact ack_ne_none_of_send c d b role rest tail habort

/-- SEND with the pins configured runs its `Send` (R64, R69). -/
theorem planOf_send {s : State} (b : BitVec 8) (hscl : s.actScl ≠ 0) (hsda : s.actSda ≠ 0) :
    planOf (.send b) s = .run (sendOps (wiresOf s.actScl s.actSda) b .host) [] .engine := by
  have hconf : unconf s = false := by
    rw [unconf, beq_false_of_ne hscl, beq_false_of_ne hsda]
    rfl
  simp [planOf, planSend, enginePlan, hconf, activeWires_eq]

/-- An ACCESS that passes its checks begins with `Start` and its first `Send` (R82, R83). -/
theorem planOf_access {i : Instr} {s : State} (hi : IsAccess i) (hopen : s.isOpen = true) (haddr : s.saddr ≠ 0) :
    (∃ r, planOf i s = .fault r) ∨ ∃ b rest tail, planOf i s =
      .run (startOps (wiresOf s.actScl s.actSda) ++ sendOps (wiresOf s.actScl s.actSda) b .addrWrite ++ rest) tail
        .access := by
  have hpass : accessBlocked s = false := by
    rw [accessBlocked, hopen, beq_false_of_ne haddr]
    rfl
  obtain ⟨size, len, c, rfl | rfl⟩ := hi
  · simp only [planOf, planAccessW, hpass, Bool.false_eq_true, if_false]
    split
    · exact .inl ⟨_, rfl⟩
    · exact .inr ⟨_, _, _, rfl⟩
  · simp only [planOf, planAccessR, hpass, Bool.false_eq_true, if_false]
    exact .inr ⟨_, _, _, by simp only [accessReadBody, activeWires_eq, List.append_assoc]; rfl⟩

/-- Settles O34: no plan and no operation reads a flag, and a completion step keeps NACK only where no bit was
sampled. -/
theorem flagsDoNotAffectCommands : Obligations.FlagsDoNotAffectCommands := by
  intro s t i n e p h
  rw [exec_eq] at h
  cases h
  obtain ⟨n', e', p', hend, herr, hflags⟩ := runPlan_setFlags (planOf i s) n e p s
  have hu : exec i (setFlags n e p s) = .next (setFlags n' e' p' (runPlan (planOf i s) s)) := by
    rw [exec_eq, planOf_setFlags, hend]
  refine ⟨_, hu, rfl, rfl, rfl, rfl, rfl, rfl, rfl, rfl, rfl, rfl, rfl, herr, ?send, ?access⟩
  case send =>
    rintro b rfl hscl hsda
    have hplan := planOf_send b hscl hsda
    refine (hflags _ _ _ hplan).1 (.inl rfl) ?_
    rw [← List.append_nil (sendOps _ _ _)]
    exact ack_ne_none_of_send s.actScl s.actSda b .host [] [] rfl
  case access =>
    intro hi hopen haddr hunmarked
    obtain ⟨r, hfault⟩ | ⟨b, rest, tail, hplan⟩ := planOf_access hi hopen haddr
    · simp [hfault, runPlan, abandon] at hunmarked
    · obtain ⟨hnack, hphase⟩ := hflags _ _ _ hplan
      exact ⟨hnack (.inr rfl) (ack_ne_none_of_start_send _ _ b _ rest tail rfl), hphase rfl⟩

end Sys2Proof.Machine

/-! PROOFS. Decoding a command's word gives the command back (R53 to R58). -/

namespace Sys2Proof

/-- The word of every command carries its operation code (R57). -/
theorem opField_encode (i : Instr) : opField (encode i) = Laws.OpField.opcode i := by
  cases i with
  | send b => exact Laws.OpField.send b
  | setaddr a7 => exact Laws.OpField.setaddr a7
  | accessW size len cmdb => exact Laws.OpField.accessW size len cmdb
  | accessR size len cmdb => exact Laws.OpField.accessR size len cmdb
  | start | restart | stop | recv | ack | openBus | closeBus => decide

@[simp] theorem sizeOfField_sizeField (size : SizeClass) : sizeOfField (sizeField size) = size := by cases size <;> rfl

/-- The operation code selects the command's format, and each operand is read off its place in the word (R54). -/
theorem decode_encode (i : Instr) : decode (encode i) = .ok i := by
  have hop := opField_encode i
  cases i with
  | start | restart | stop | recv | ack | openBus | closeBus => decide
  | send | setaddr | accessW | accessR =>
    simp only [Laws.OpField.opcode] at hop
    simp only [decode, hop]
    simp (disch := omega) only [encode, BitVec.extractLsb'_append_eq_of_le, BitVec.extractLsb'_append_eq_of_add_le,
      Nat.sub_self, Nat.reduceSub, BitVec.extractLsb'_eq_self, sizeOfField_sizeField]
    rfl

end Sys2Proof

/-! PROOFS. The host's accesses through whole steps: undefined accesses, DATA words, and a command that is waited for
(R37, R42 to R47, R61, R88 to R90). -/

namespace Sys2Proof.Machine

-- ## Accesses that mark a fault (R43, R88 to R90)

theorem outsideWindow_eq_false {off : Nat} (h : off < 0x200) : outsideWindow off = false := decide_eq_false (by omega)

/-- On an unmarked machine a fault's mark is the new reason (R38). -/
theorem markFault_of_unmarked {s : State} (r : Fault) (hf : s.faulted = none) :
    markFault r s = { s with faulted := some r } := by
  simp [markFault, hf]

/-- The step of a read that marks a fault returns nothing, and removes the read from the script. -/
theorem step_of_faulting_read {s : State} {off bytes : Nat} {r : Fault} {rest : List HostAction}
    (hf : s.faulted = none) (hread : ∀ u, hostRead off bytes u = markFault r u)
    (hh : s.host = .read off bytes :: rest) :
    step s = .next { s with faulted := some r, host := rest } :=
  calc step s = .next (hostRead off bytes (popHost s)) := step_of_host_cons hf hh
    _ = .next (markFault r { s with host := rest }) := by rw [hread, popHost_of_host_cons hh]
    _ = .next { s with faulted := some r, host := rest } := by rw [markFault_of_unmarked r (by exact hf)]

/-- The step of a write that marks a fault while BUSY = 0 stores nothing; while BUSY = 1 every write inside the window
marks BUSY_WRITE before its other checks (R89, R90). -/
theorem step_of_faulting_write {s : State} {off bytes : Nat} {v : Word} {r : Fault} {rest : List HostAction}
    (hf : s.faulted = none) (hin : off < 0x200)
    (hwrite : ∀ u, u.busy = false → hostWrite off bytes v u = markFault r u)
    (hh : s.host = .write off bytes v :: rest) :
    step s = .next { s with faulted := some (if s.busy then .busyWrite else r), host := rest } := by
  have hmark : hostWrite off bytes v (popHost s) = markFault (if s.busy then .busyWrite else r) (popHost s) := by
    cases hb : s.busy with
    | false => exact hwrite (popHost s) hb
    | true => simp [hostWrite, outsideWindow_eq_false hin, hb]
  calc step s = .next (hostWrite off bytes v (popHost s)) := step_of_host_cons hf hh
    _ = .next (markFault (if s.busy then .busyWrite else r) { s with host := rest }) := by
      rw [hmark, popHost_of_host_cons hh]
    _ = .next { s with faulted := some (if s.busy then .busyWrite else r), host := rest } := by
      rw [markFault_of_unmarked _ (by exact hf)]

section
variable {off bytes : Nat}

theorem badAccess_iff : badAccess off bytes = true ↔ bytes ≠ 4 ∨ off % 4 ≠ 0 := by simp [badAccess]

theorem reservedOffset_eq_true (h : 0x1C ≤ off ∧ off ≤ 0xFC) : reservedOffset off = true := by
  simp only [reservedOffset, Bool.and_eq_true, decide_eq_true_eq]
  omega

theorem hostRead_badWidth (hin : off < 0x200) (hbad : badAccess off bytes = true) (s : State) :
    hostRead off bytes s = markFault .badWidth s := by
  simp [hostRead, outsideWindow_eq_false hin, hbad]

theorem hostWrite_badWidth (v : Word) (hin : off < 0x200) (hbad : badAccess off bytes = true) (s : State)
    (hb : s.busy = false) : hostWrite off bytes v s = markFault .badWidth s := by
  simp [hostWrite, outsideWindow_eq_false hin, hb, hbad]

theorem hostRead_reserved (hin : off < 0x200) (hgood : badAccess off bytes = false) (hres : reservedOffset off = true)
    (s : State) : hostRead off bytes s = markFault .reservedOffset s := by
  simp [hostRead, outsideWindow_eq_false hin, hgood, hres]

theorem hostWrite_reserved (v : Word) (hin : off < 0x200) (hgood : badAccess off bytes = false)
    (hres : reservedOffset off = true) (s : State) (hb : s.busy = false) :
    hostWrite off bytes v s = markFault .reservedOffset s := by
  simp [hostWrite, outsideWindow_eq_false hin, hb, hgood, hres]
end

/-- Settles O40: a misaligned or differently wide access meets the width check, an aligned one the check of
its offset. -/
theorem undefinedAccessIsAFault : Obligations.UndefinedAccessIsAFault := by
  intro s off bytes v rest hf hin
  refine ⟨fun hbad => ?badWidth, fun hbytes halign hlow hhigh => ?reserved⟩
  case badWidth =>
    have hbad := badAccess_iff.mpr hbad
    exact ⟨step_of_faulting_read hf (hostRead_badWidth hin hbad),
      step_of_faulting_write hf hin (hostWrite_badWidth v hin hbad)⟩
  case reserved =>
    have hgood : badAccess off bytes = false := by simp [badAccess, hbytes, halign]
    have hres := reservedOffset_eq_true ⟨hlow, hhigh⟩
    exact ⟨step_of_faulting_read hf (hostRead_reserved hin hgood hres),
      step_of_faulting_write hf hin (hostWrite_reserved v hin hgood hres)⟩

/-- Settles O48: a read returns a word, returns a free word, or marks a fault. -/
theorem readsHaveNoSideEffect : Obligations.ReadsHaveNoSideEffect := by
  intro s off bytes
  obtain ⟨v, h⟩ | h | ⟨g, h⟩ := hostRead_cases off bytes s
  · exact ⟨[v], s.readDraws, s.faulted, h, .inl rfl⟩
  · exact ⟨[Config.freeWord s.readDraws], s.readDraws + 1, s.faulted, h, .inl rfl⟩
  · exact ⟨[], s.readDraws, some (s.faulted.getD g), by rw [h, List.append_nil]; rfl, .inr ⟨rfl, g, rfl⟩⟩

-- ## DATA words (R37, R44)

/-- A store to DATA sets the word there (R44). -/
theorem storeWord_data (a : Nat) (v : Word) (s : State) :
    storeWord (0x100 + a) v s = { s with data := setDataWord s.data a v } := by
  simp [storeWord]

section
variable {m : Memory} {a : Nat}

/-- A DATA word whose four bytes are set is made of them, the first lowest (R44). -/
theorem dataWord_of_set {b : Fin 4 → Byte} (h : ∀ j : Fin 4, memRead m (a + j) = some (b j)) :
    dataWord m a = some (b 3 ++ b 2 ++ b 1 ++ b 0) := by
  have h0 : memRead m a = some (b 0) := h 0
  have h1 : memRead m (a + 1) = some (b 1) := h 1
  have h2 : memRead m (a + 2) = some (b 2) := h 2
  have h3 : memRead m (a + 3) = some (b 3) := h 3
  simp only [dataWord, h0, h1, h2, h3]

/-- A DATA word with an UNSET byte has no value (R37). -/
theorem dataWord_of_unset {j : Nat} (hj : j < 4) (h : memRead m (a + j) = none) : dataWord m a = none := by
  simp only [dataWord]
  split
  · interval_cases j
    all_goals simp_all
  · rfl
end

section
variable {s : State} {a : Nat} (hb : s.busy = false)
include hb

theorem readWord_data {v : Word} (h : dataWord s.data a = some v) : readWord (0x100 + a) s = returnRead v s := by
  have hstatus : 0x100 + a ≠ 4 := by omega
  have hcfg : 0x100 + a ≠ 8 := by omega
  simp [readWord, hb, hstatus, hcfg, h]

/-- While BUSY = 0 a read of a DATA word with an UNSET byte marks UNSET_READ (R37). -/
theorem readWord_unset (h : dataWord s.data a = none) : readWord (0x100 + a) s = markFault .unsetRead s := by
  have hstatus : 0x100 + a ≠ 4 := by omega
  have hcfg : 0x100 + a ≠ 8 := by omega
  simp [readWord, hb, hstatus, hcfg, h]
end

/-- Settles O43: a store writes the four bytes of its word, and a read puts them together or finds one UNSET. -/
theorem dataWordIsLittleEndian : Obligations.DataWordIsLittleEndian := by
  intro s k v rest hf hb hk
  have hoff : (0x100 + 4 * k) % 4 = 0 ∧
      (0x100 + 4 * k < 0x1C ∨ 0x100 ≤ 0x100 + 4 * k ∧ 0x100 + 4 * k < 0x200) := by omega
  refine ⟨fun hh => ?write, fun hh => ⟨fun b hset => ?read, fun j hj hunset => ?unset⟩⟩
  case write =>
    refine ⟨setDataWord s.data (4 * k) v, ?_, fun j hj => ?_, fun a ha => ?_⟩
    · rw [step_of_write hf hb hoff hh, storeWord_data]
    · rw [memRead_setDataWord]
      interval_cases j
      all_goals simp
    · rw [memRead_setDataWord, if_neg (by omega), if_neg (by omega), if_neg (by omega), if_neg (by omega)]
  case read =>
    rw [step_of_read hf hoff hh, readWord_data (by exact hb) (by exact dataWord_of_set hset)]
    rfl
  case unset =>
    rw [step_of_read hf hoff hh, readWord_unset (by exact hb) (by exact dataWord_of_unset hj hunset),
      markFault_of_unmarked _ (by exact hf)]

-- ## A command written and waited for (R17, R47, R61)

/-- A command ends with BUSY = 0, by its completion step or by a model fault (R17, R82). -/
theorem exec_busy {i : Instr} {s t : State} (h : exec i s = .next t) : t.busy = false := by
  rw [exec_eq] at h
  cases h
  cases planOf i s <;> rfl

/-- The poll that ends a wait returns STATUS to the host (R61). -/
theorem step_of_wait_idle {s : State} {rest : List HostAction} (hf : s.faulted = none) (hb : s.busy = false)
    (hh : s.host = .wait :: rest) : step s = .next { s with reads := s.reads ++ [statusWord s], host := rest } :=
  calc step s = waitTurn s := step_of_host_cons hf hh
    _ = .next (returnRead (statusWord s) (popHost s)) := by simp [waitTurn, hb]
    _ = .next { s with reads := s.reads ++ [statusWord s], host := rest } := by rw [popHost_of_host_cons hh]; rfl

/-- A wait at a command's start runs the whole command, and its next poll returns the STATUS the command left: the
command neither moves the script on nor returns a read. -/
theorem steps_of_waited_start {t : State} {i : Instr} {rest : List HostAction} (hf : t.faulted = none)
    (hb : t.busy = true) (hq : t.seq = .start) (hd : decode t.cur = .ok i) (hh : t.host = .wait :: rest) :
    ∃ u, step t = .next u ∧ exec i t = .next u ∧ u.busy = false ∧
      (u.faulted = none → step u = .next { u with reads := t.reads ++ [statusWord u], host := rest }) := by
  have hrun : step t = exec i t := by rw [step_of_hostWaits hf hb (.inr ⟨rest, hh⟩), runToCompletion_of_start hq hd]
  obtain ⟨u, hexec⟩ : ∃ u, exec i t = .next u := ⟨_, exec_eq i t⟩
  obtain ⟨-, -, -, hhost, hreads, -⟩ := exec_keeps hexec
  have hpoll (hunmarked : u.faulted = none) :
      step u = .next { u with reads := t.reads ++ [statusWord u], host := rest } := by
    rw [step_of_wait_idle hunmarked (exec_busy hexec) (hhost.trans hh), hreads]
  exact ⟨u, hrun.trans hexec, hexec, exec_busy hexec, hpoll⟩

/-- Settles O38: the write accepts the word, which decodes to the command, with the wait next in the script. -/
theorem waitedCommandShowsItsStatus : Obligations.WaitedCommandShowsItsStatus := by
  intro s i rest hf hb hh
  have hstart : step s = .next (acceptCommand (encode i) { s with host := .wait :: rest }) := by
    rw [step_of_write hf hb (by decide) hh, storeWord_cmd]
  obtain ⟨u, hwait, hexec, hidle, hpoll⟩ := steps_of_waited_start
    (t := acceptCommand (encode i) { s with host := .wait :: rest }) hf rfl rfl (decode_encode i) rfl
  exact ⟨_, u, hstart, hwait, hexec, hidle, hpoll⟩

end Sys2Proof.Machine

/-! PROOFS. The encoding: the fields of a word, the rows of the opcode map, the illegal words, the assembler's words,
and the payload length SIZE selects (R53 to R60, R62, R79). -/

namespace Sys2Proof

-- ## A word is its fields (R54)

theorem fieldsN_eq (w : Word) : opField w ++ w.extractLsb' 0 28 = w :=
  (BitVec.extractLsb'_append_extractLsb'_eq_extractLsb' rfl).trans BitVec.extractLsb'_eq_self

/-- A word is its operation code, the bits down to `k`, and the `k` bits below. -/
theorem fields_join (w : Word) {k m : Nat} (h : 28 = k + m) :
    opField w ++ w.extractLsb' k m ++ w.extractLsb' 0 k = w.extractLsb' 0 (4 + m + k) := by
  rw [opField, BitVec.extractLsb'_append_extractLsb'_eq_extractLsb' h]
  exact BitVec.extractLsb'_append_extractLsb'_eq_extractLsb' (Nat.zero_add k).symm

theorem fieldsS_eq (w : Word) : opField w ++ w.extractLsb' 1 27 ++ w.extractLsb' 0 1 = w :=
  (fields_join w rfl).trans BitVec.extractLsb'_eq_self

theorem fieldsB_eq (w : Word) : opField w ++ w.extractLsb' 8 20 ++ w.extractLsb' 0 8 = w :=
  (fields_join w rfl).trans BitVec.extractLsb'_eq_self

theorem fieldsA_eq (w : Word) : opField w ++ w.extractLsb' 7 21 ++ w.extractLsb' 0 7 = w :=
  (fields_join w rfl).trans BitVec.extractLsb'_eq_self

theorem fieldsX_eq (w : Word) :
    opField w ++ w.extractLsb' 27 1 ++ w.extractLsb' 26 1 ++ w.extractLsb' 24 2 ++ w.extractLsb' 16 8 ++
      w.extractLsb' 8 8 ++ w.extractLsb' 0 8 = w := by
  simp (disch := decide) only [opField, BitVec.extractLsb'_append_extractLsb'_eq_extractLsb',
    BitVec.extractLsb'_eq_self]

/-- Two fields checked as one number are zero only where both are. -/
theorem append_eq_zero {m n : Nat} {x : BitVec m} {y : BitVec n} (h : x ++ y = 0#(m + n)) : x = 0#m ∧ y = 0#n := by
  rw [← BitVec.zero_append_zero] at h
  have hlow : y = 0#n := by simpa only [BitVec.extractLsb'_append_eq_right] using congrArg (BitVec.extractLsb' 0 n) h
  exact ⟨(BitVec.append_left_inj y).mp (h.trans (by rw [hlow])), hlow⟩

-- ## What the decoder answers (R57, R58)

/-- The check of the reserved bits passes only where they are all zero. -/
theorem ifReservedZero_eq_ok {n : Nat} {reserved : BitVec n} {i j : Instr}
    (h : ifReservedZero reserved i = .ok j) : reserved = 0#n ∧ i = j := by
  unfold ifReservedZero at h
  split at h
  · exact ⟨‹_›, Except.ok.inj h⟩
  · cases h

/-- The check of the reserved bits refuses a word for those bits alone. -/
theorem ifReservedZero_ne_reservedOp {n : Nat} (reserved : BitVec n) (i : Instr) :
    ifReservedZero reserved i ≠ .error .reservedOp := by
  unfold ifReservedZero
  split <;> simp

@[simp] theorem sizeField_sizeOfField (f : BitVec 2) : sizeField (sizeOfField f) = f := by
  revert f
  decide

/-- START and RESTART differ in the bit R of their word. -/
theorem encode_start (r : BitVec 1) : encode (if r = 1#1 then .restart else .start) = 0x1#4 ++ 0#27 ++ r := by
  obtain rfl | rfl := BitVec.eq_zero_or_eq_one r <;> rfl

/-- The two accesses differ in the bit DIR of their word. -/
theorem encode_access (dir : BitVec 1) (size : SizeClass) (len cmdb : BitVec 8) :
    encode (if dir = 1#1 then .accessR size len cmdb else .accessW size len cmdb) =
      0x7#4 ++ dir ++ 0#1 ++ sizeField size ++ len ++ 0#8 ++ cmdb := by
  obtain rfl | rfl := BitVec.eq_zero_or_eq_one dir <;> rfl

/-- The operation code, the zero reserved bits and the operands of a legal word are the fields its command is encoded
with. -/
theorem encode_of_decode {w : Word} {i : Instr} (h : decode w = .ok i) : encode i = w := by
  unfold decode at h
  split at h
  -- no format has the operation code
  case h_10 => cases h
  all_goals
    rename_i hop
    obtain ⟨hreserved, rfl⟩ := ifReservedZero_eq_ok h
  -- formats S, B, A and X, then format N
  case h_1 => rw [encode_start, ← hop, ← hreserved, fieldsS_eq]
  case h_3 => rw [encode, ← hop, ← hreserved, fieldsB_eq]
  case h_6 => rw [encode, ← hop, ← hreserved, fieldsA_eq]
  case h_7 =>
    obtain ⟨hbit, hbyte⟩ := append_eq_zero hreserved
    rw [encode_access, sizeField_sizeOfField, ← hop, ← hbit, ← hbyte, fieldsX_eq]
  all_goals rw [encode, ← hop, ← hreserved, fieldsN_eq]

/-- The operation codes no format has. -/
theorem opcode_unassigned : ∀ op : BitVec 4, op ≠ 1 → op ≠ 2 → op ≠ 3 → op ≠ 4 → op ≠ 5 → op ≠ 6 → op ≠ 7 → op ≠ 8 →
    op ≠ 9 → op = 0 ∨ 0xA ≤ op.toNat := by decide

/-- A word is illegal by its operation code exactly when no format has that code (R58). -/
theorem decode_eq_reservedOp_iff (w : Word) :
    decode w = .error .reservedOp ↔ (opField w = 0 ∨ 0xA ≤ (opField w).toNat) := by
  unfold decode
  split
  case h_10 h₁ h₂ h₃ h₄ h₅ h₆ h₇ h₈ h₉ => exact iff_of_true rfl (opcode_unassigned _ h₁ h₂ h₃ h₄ h₅ h₆ h₇ h₈ h₉)
  all_goals
    rename_i hop
    simp [hop, ifReservedZero_ne_reservedOp]

-- ## The rows of the opcode map (R57)

/-- The number of a command's row in the opcode map. -/
def rowNumber (i : Instr) : Fin 11 :=
  match i with
  | .start => 0
  | .restart => 1
  | .stop => 2
  | .send _ => 3
  | .recv => 4
  | .ack => 5
  | .setaddr _ => 6
  | .accessW _ _ _ => 7
  | .accessR _ _ _ => 8
  | .openBus => 9
  | .closeBus => 10

/-- The row of a command in the opcode map. -/
def rowOf (i : Instr) : OpcodeRow := opcodeMap[rowNumber i]

theorem rowOf_mem (i : Instr) : rowOf i ∈ opcodeMap := List.getElem_mem _

theorem rowOf_mnemonic (i : Instr) : (rowOf i).mnemonic = mnemonicOf i := by cases i <;> rfl

/-- The mask of SEND keeps all but the byte. -/
theorem mask_send (b : BitVec 8) : (0x3#4 ++ 0#20 ++ b) &&& 0xFFFFFF00#32 = 0x3#4 ++ 0#28 := by
  rw [show 0xFFFFFF00#32 = 0xF#4 ++ 0xFFFFF#20 ++ 0#8 from rfl, BitVec.and_append, BitVec.and_zero]
  rfl

/-- The mask of SETADDR keeps all but the address. -/
theorem mask_setaddr (a7 : BitVec 7) : (0x6#4 ++ 0#21 ++ a7) &&& 0xFFFFFF80#32 = 0x6#4 ++ 0#28 := by
  rw [show 0xFFFFFF80#32 = 0xF#4 ++ 0x1FFFFF#21 ++ 0#7 from rfl, BitVec.and_append, BitVec.and_zero]
  rfl

/-- The mask of the accesses keeps all but SIZE, LEN and CMDB. -/
theorem mask_access (dir : BitVec 1) (f : BitVec 2) (len cmdb : BitVec 8) :
    (0x7#4 ++ dir ++ 0#1 ++ f ++ len ++ 0#8 ++ cmdb) &&& 0xFC00FF00#32 = 0x7#4 ++ dir ++ 0#27 := by
  change (0x7#4 ++ dir ++ 0#1 ++ f ++ len ++ 0#8 ++ cmdb) &&& (0xF#4 ++ 1#1 ++ 1#1 ++ 0#2 ++ 0#8 ++ 0xFF#8 ++ 0#8) = _
  simp only [BitVec.and_append, BitVec.and_zero]
  obtain rfl | rfl := BitVec.eq_zero_or_eq_one dir <;> rfl

theorem rowOf_admits_encode (i : Instr) : (rowOf i).admits (encode i) = true := by
  cases i with
  | start | restart | stop | recv | ack | openBus | closeBus => decide
  | send b => exact beq_iff_eq.mpr (mask_send b)
  | setaddr a7 => exact beq_iff_eq.mpr (mask_setaddr a7)
  | accessW size len cmdb => exact beq_iff_eq.mpr (mask_access 0#1 (sizeField size) len cmdb)
  | accessR size len cmdb => exact beq_iff_eq.mpr (mask_access 1#1 (sizeField size) len cmdb)

/-- A field that a row's mask covers is the pattern's. -/
theorem OpcodeRow.field_of_admits {r : OpcodeRow} {w : Word} (h : r.admits w = true) (start len : Nat)
    (hmask : r.mask.extractLsb' start len = BitVec.allOnes len) :
    w.extractLsb' start len = r.pattern.extractLsb' start len := by
  have hw : w &&& r.mask = r.pattern := beq_iff_eq.mp h
  rw [← hw, BitVec.extractLsb'_and, hmask, BitVec.and_allOnes]

/-- A row whose mask covers the whole word admits its pattern alone. -/
theorem OpcodeRow.eq_pattern_of_admits {r : OpcodeRow} {w : Word} (h : r.admits w = true)
    (hmask : r.mask = BitVec.allOnes 32) : w = r.pattern := by
  have hw : w &&& r.mask = r.pattern := beq_iff_eq.mp h
  rwa [hmask, BitVec.and_allOnes] at hw

theorem decode_fieldsB {w : Word} (hop : opField w = 0x3#4) (hreserved : w.extractLsb' 8 20 = 0#20) :
    decode w = .ok (.send (w.extractLsb' 0 8)) := by
  simp only [decode, hop, hreserved, ifReservedZero, BitVec.ofNat_eq_ofNat, if_true]

theorem decode_fieldsA {w : Word} (hop : opField w = 0x6#4) (hreserved : w.extractLsb' 7 21 = 0#21) :
    decode w = .ok (.setaddr (w.extractLsb' 0 7)) := by
  simp only [decode, hop, hreserved, ifReservedZero, BitVec.ofNat_eq_ofNat, if_true]

theorem decode_fieldsX {w : Word} (hop : opField w = 0x7#4) (hbit : w.extractLsb' 26 1 = 0#1)
    (hbyte : w.extractLsb' 8 8 = 0#8) :
    decode w = .ok (if w.extractLsb' 27 1 = 1#1
      then .accessR (sizeOfField (w.extractLsb' 24 2)) (w.extractLsb' 16 8) (w.extractLsb' 0 8)
      else .accessW (sizeOfField (w.extractLsb' 24 2)) (w.extractLsb' 16 8) (w.extractLsb' 0 8)) := by
  simp only [decode, hop, hbit, hbyte, ifReservedZero, BitVec.zero_append_zero, BitVec.ofNat_eq_ofNat, if_true]

/-- A word that matches a row decodes to that row's command: the mask covers the operation code, the reserved bits, and
the bit that tells two commands of one code apart. -/
theorem decode_of_admits (w : Word) :
    ∀ r ∈ opcodeMap, r.admits w = true → ∃ i, decode w = .ok i ∧ mnemonicOf i = r.mnemonic := by
  simp only [opcodeMap, List.forall_mem_cons]
  refine ⟨?start, ?restart, ?stop, ?send, ?recv, ?ack, ?setaddr, ?accessW, ?accessR, ?openBus, ?closeBus,
    List.forall_mem_nil _⟩ <;> intro h
  case start | restart | stop | recv | ack | openBus | closeBus =>
    obtain rfl := OpcodeRow.eq_pattern_of_admits h rfl
    exact ⟨_, rfl, rfl⟩
  case send =>
    exact ⟨_, decode_fieldsB (OpcodeRow.field_of_admits h 28 4 rfl) (OpcodeRow.field_of_admits h 8 20 rfl), rfl⟩
  case setaddr =>
    exact ⟨_, decode_fieldsA (OpcodeRow.field_of_admits h 28 4 rfl) (OpcodeRow.field_of_admits h 7 21 rfl), rfl⟩
  case accessW | accessR =>
    have hdir := OpcodeRow.field_of_admits h 27 1 rfl
    have hword := decode_fieldsX (OpcodeRow.field_of_admits h 28 4 rfl) (OpcodeRow.field_of_admits h 26 1 rfl)
      (OpcodeRow.field_of_admits h 8 8 rfl)
    rw [hdir] at hword
    exact ⟨_, hword, rfl⟩

theorem opcodeMap_mnemonic_injective :
    ∀ r₁ ∈ opcodeMap, ∀ r₂ ∈ opcodeMap, r₁.mnemonic = r₂.mnemonic → r₁ = r₂ := by decide

/-- The legal words are those some row admits. -/
theorem decode_ok_iff_admits (w : Word) : (∃ i, decode w = .ok i) ↔ ∃ r ∈ opcodeMap, r.admits w = true := by
  constructor
  · rintro ⟨i, h⟩
    exact ⟨rowOf i, rowOf_mem i, encode_of_decode h ▸ rowOf_admits_encode i⟩
  · rintro ⟨r, hr, h⟩
    obtain ⟨i, hi, -⟩ := decode_of_admits w r hr h
    exact ⟨i, hi⟩

-- ## The encoding obligations

/-- Settles O1: the operation code selects the command's format, and each operand is read off its place in the word. -/
theorem decodeEncodeRoundTrip : Obligations.DecodeEncodeRoundTrip := decode_encode

/-- Settles O2: the fields of a legal word are those its command is encoded with. -/
theorem encodeDecodeRoundTrip : Obligations.EncodeDecodeRoundTrip := fun _ _ => encode_of_decode

/-- Settles O3: a legal word is its command's word, which the command's row admits; and two rows that admit one word
have the mnemonic of the one command it decodes to. -/
theorem decodeFollowsOpcodeMap : Obligations.DecodeFollowsOpcodeMap := by
  refine ⟨?legal, decode_of_admits, ?disjoint⟩
  case legal =>
    intro w i h
    exact ⟨rowOf i, rowOf_mem i, encode_of_decode h ▸ rowOf_admits_encode i, rowOf_mnemonic i⟩
  case disjoint =>
    intro w r₁ hr₁ r₂ hr₂ h₁ h₂
    obtain ⟨i, hi, hname₁⟩ := decode_of_admits w r₁ hr₁ h₁
    obtain ⟨j, hj, hname₂⟩ := decode_of_admits w r₂ hr₂ h₂
    obtain rfl : i = j := Except.ok.inj (hi.symm.trans hj)
    exact opcodeMap_mnemonic_injective r₁ hr₁ r₂ hr₂ (hname₁.symm.trans hname₂)

/-- Settles O4: of the decoder's three answers, a command is the one where a row admits the word, and the reserved
operation code the one where no format has the code; the third is left. -/
theorem illegalWordsAreTheReservedOnes : Obligations.IllegalWordsAreTheReservedOnes := by
  intro w
  refine ⟨decode_eq_reservedOp_iff w, ?bits⟩
  have hop : decode w = .error .reservedOp ↔ ((opField w).toNat = 0 ∨ 0xA ≤ (opField w).toNat) := by
    rw [decode_eq_reservedOp_iff, ← BitVec.toNat_inj]
    rfl
  have hrows : (∀ r ∈ opcodeMap, r.admits w = false) ↔ ¬ ∃ i, decode w = .ok i := by
    simp [decode_ok_iff_admits]
  rw [hrows]
  cases hd : decode w with
  | ok i => simp
  | error e =>
    rw [hd] at hop
    cases e with
    | reservedOp =>
      have hcode := hop.mp rfl
      exact ⟨nofun, fun ⟨hlow, hhigh, _⟩ => by omega⟩
    | reservedBits =>
      have hcode := mt hop.mpr nofun
      exact ⟨fun _ => ⟨by omega, by omega, by simp⟩, fun _ => rfl⟩

/-- Settles O5: each row of the table of worked encodings. -/
theorem workedEncodings : Obligations.WorkedEncodings :=
  ⟨rfl, rfl, rfl, rfl, rfl, rfl, rfl, rfl, rfl, rfl, rfl, rfl, rfl⟩

-- ## The assembler's words (R60)

/-- Fields side by side are the fields shifted to their places and put together. -/
theorem encode_send (b : BitVec 8) : encode (.send b) = 0x30000000#32 ||| b.setWidth 32 :=
  (BitVec.setWidth_eq _).symm.trans BitVec.setWidth_append_eq_shiftLeft_setWidth_or

theorem encode_setaddr (a7 : BitVec 7) : encode (.setaddr a7) = 0x60000000#32 ||| a7.setWidth 32 :=
  (BitVec.setWidth_eq _).symm.trans BitVec.setWidth_append_eq_shiftLeft_setWidth_or

/-- The word of an access as R60 writes it, from the word of its operation code and direction. -/
def accessWord (base : Word) (c : Nat) (size : SizeClass) (n : Nat) : Word :=
  base ||| (sizeField size).setWidth 32 <<< 24 ||| BitVec.ofNat 32 n <<< 16 ||| BitVec.ofNat 32 c

/-- An access with operands in range is encoded as R60 writes it. -/
theorem fieldsX_eq_accessWord (dir : BitVec 1) (size : SizeClass) {c n : Nat} (hc : c ≤ 255) (hn : n ≤ 255) :
    0x7#4 ++ dir ++ 0#1 ++ sizeField size ++ BitVec.ofNat 8 n ++ 0#8 ++ BitVec.ofNat 8 c =
      accessWord (0x7#4 ++ dir ++ 0#27) c size n := by
  rw [← BitVec.setWidth_eq (0x7#4 ++ dir ++ 0#1 ++ sizeField size ++ BitVec.ofNat 8 n ++ 0#8 ++ BitVec.ofNat 8 c)]
  simp only [BitVec.setWidth_append_eq_shiftLeft_setWidth_or, BitVec.shiftLeft_or_distrib, ← BitVec.shiftLeft_add]
  simp (disch := omega) only [BitVec.setWidth_ofNat_of_le_of_lt, accessWord]
  obtain rfl | rfl := BitVec.eq_zero_or_eq_one dir <;> simp

/-- A line whose command needs a check of its operands has its command's word where the check passes, and no word where
it fails. -/
theorem assemble_of_instrOfLine {l : AsmLine} {P : Prop} [Decidable P] {i : Instr} {w : Word}
    (hline : instrOfLine l = if P then some i else none) (hword : P → encode i = w) :
    assemble l = if P then some w else none := by
  rw [assemble, hline]
  split
  · next h => rw [Option.map_some, hword h]
  · rfl

theorem SizeClass.lengthOk_le {size : SizeClass} {n : Nat} (h : size.lengthOk n = true) : n ≤ 255 := by
  cases size <;> simp [SizeClass.lengthOk] at h <;> omega

theorem assemble_send (b : Nat) :
    assemble (.send b) = if b ≤ 255 then some (0x30000000#32 ||| BitVec.ofNat 32 b) else none :=
  assemble_of_instrOfLine (i := .send (BitVec.ofNat 8 b)) (by simp [instrOfLine, AsmLine.wellFormed]) fun hb => by
    rw [encode_send, BitVec.setWidth_ofNat_of_le_of_lt (by decide) (by omega)]

theorem assemble_setaddr (a : Nat) :
    assemble (.setaddr a) = if a ≤ 127 then some (0x60000000#32 ||| BitVec.ofNat 32 a) else none :=
  assemble_of_instrOfLine (i := .setaddr (BitVec.ofNat 7 a)) (by simp [instrOfLine, AsmLine.wellFormed]) fun ha => by
    rw [encode_setaddr, BitVec.setWidth_ofNat_of_le_of_lt (by decide) (by omega)]

theorem assemble_accessW (c : Nat) (size : SizeClass) (n : Nat) : assemble (.accessW c size n) =
    if c ≤ 255 ∧ size.lengthOk n = true then some (accessWord 0x70000000 c size n) else none :=
  assemble_of_instrOfLine (i := .accessW size (BitVec.ofNat 8 n) (BitVec.ofNat 8 c))
    (by simp [instrOfLine, AsmLine.wellFormed])
    fun ⟨hc, hn⟩ => fieldsX_eq_accessWord 0#1 size hc (SizeClass.lengthOk_le hn)

theorem assemble_accessR (c : Nat) (size : SizeClass) (n : Nat) : assemble (.accessR c size n) =
    if c ≤ 255 ∧ size.lengthOk n = true then some (accessWord 0x78000000 c size n) else none :=
  assemble_of_instrOfLine (i := .accessR size (BitVec.ofNat 8 n) (BitVec.ofNat 8 c))
    (by simp [instrOfLine, AsmLine.wellFormed])
    fun ⟨hc, hn⟩ => fieldsX_eq_accessWord 1#1 size hc (SizeClass.lengthOk_le hn)

/-- QUICK, BYTE and WORD are written with LEN = 0, which adds nothing to the word. -/
theorem accessWord_of_ne_block (base : Word) (c : Nat) {size : SizeClass} (n : Nat) (h : size ≠ .block) :
    (if c ≤ 255 ∧ size.lengthOk n = true then some (accessWord base c size n) else none) =
      if c ≤ 255 ∧ n = 0 then some (base ||| (sizeField size).setWidth 32 <<< 24 ||| BitVec.ofNat 32 c) else none := by
  have hlength : size.lengthOk n = true ↔ n = 0 := by cases size <;> simp_all [SizeClass.lengthOk]
  refine if_ctx_congr (and_congr_right fun _ => hlength) (fun ⟨_, hn⟩ => ?_) fun _ => rfl
  simp [accessWord, hn]

/-- Settles O6: each line's command, its operands in range, is encoded as the table writes it. -/
theorem assemblerFollowsSyntax : Obligations.AssemblerFollowsSyntax := by
  refine ⟨by decide, assemble_send, assemble_setaddr, ?short, ?blockW, ?blockR⟩
  case short =>
    intro c n e he
    obtain ⟨hsize, hfield⟩ : e.1 ≠ .block ∧ (sizeField e.1).setWidth 32 = e.2 := by
      revert e
      decide
    rw [assemble_accessW, assemble_accessR, accessWord_of_ne_block _ c n hsize,
      accessWord_of_ne_block _ c n hsize, hfield]
    exact ⟨rfl, rfl⟩
  case blockW =>
    intro c n
    rw [assemble_accessW]
    simp [SizeClass.lengthOk, accessWord, sizeField]
  case blockR =>
    intro c n
    rw [assemble_accessR]
    simp [SizeClass.lengthOk, accessWord, sizeField]

end Sys2Proof

namespace Sys2Proof.Machine

-- ## The payload length (R56, R79)

/-- ACCESS.W reads SIZE and LEN for the payload length alone. -/
theorem exec_accessW_congr {size₁ size₂ : SizeClass} {len₁ len₂ : BitVec 8} (cmdb : BitVec 8) (s : State)
    (h : payloadLen size₁ len₁ = payloadLen size₂ len₂) :
    exec (.accessW size₁ len₁ cmdb) s = exec (.accessW size₂ len₂ cmdb) s := by
  simp only [exec_eq, planOf, planAccessW, h]

/-- ACCESS.R reads SIZE and LEN for the payload length alone. -/
theorem exec_accessR_congr {size₁ size₂ : SizeClass} {len₁ len₂ : BitVec 8} (cmdb : BitVec 8) (s : State)
    (h : payloadLen size₁ len₁ = payloadLen size₂ len₂) :
    exec (.accessR size₁ len₁ cmdb) s = exec (.accessR size₂ len₂ cmdb) s := by
  simp only [exec_eq, planOf, planAccessR, h]

theorem payloadLen_of_ne_block {size : SizeClass} (len₁ len₂ : BitVec 8) (h : size ≠ .block) :
    payloadLen size len₁ = payloadLen size len₂ := by
  cases size with
  | block => exact absurd rfl h
  | quick | byte | word => rfl

/-- Settles O23: an access depends on SIZE and LEN only through the payload length, which LEN changes for BLOCK alone. -/
theorem sizeSelectsThePayloadLength : Obligations.SizeSelectsThePayloadLength := by
  refine ⟨by decide, fun l => ⟨rfl, rfl, rfl, rfl⟩, ?ignored, ?emptyBlock⟩
  case ignored =>
    intro s size l₁ l₂ c hsize
    have hlen := payloadLen_of_ne_block l₁ l₂ hsize
    exact ⟨exec_accessW_congr c s hlen, exec_accessR_congr c s hlen⟩
  case emptyBlock =>
    intro s l c
    exact ⟨exec_accessW_congr c s rfl, exec_accessR_congr c s rfl⟩

-- ## The refusal of an illegal word (R58)

/-- At its start, running an illegal word on is the refusal. -/
theorem runToCompletion_of_illegal {s : State} {e : DecodeError} (hq : s.seq = .start) (hd : decode s.cur = .error e) :
    runToCompletion s = .next (runPlan planIllegal s) := by
  simp only [runToCompletion, hq, hd]

/-- The refusal is the completion step alone: it writes ERR. -/
theorem runPlan_planIllegal (s : State) :
    runPlan planIllegal s = { s with err := .illegalCmd, busy := false, seq := .idle, loc := Locals.init } := rfl

/-- Settles O8: the host waits, so the engine runs on, and at an illegal word's start that is the refusal. -/
theorem illegalWordIsRefused : Obligations.IllegalWordIsRefused := by
  intro s e hf hb hq hd hw
  rw [step_of_hostWaits hf hb hw, runToCompletion_of_illegal hq hd, runPlan_planIllegal]

end Sys2Proof.Machine

/-! PROOFS. The engine commands as whole commands: what runs with the pins configured, what is written without them, and
the events SEND and RECV issue (R64, R66 to R71). -/

namespace Sys2Proof.Machine

-- ## The guard on the pins (R64)

section
variable {i : Instr} {s : State} {refusal : Err} {ops : List PinOp}

theorem unconf_iff : unconf s = true ↔ s.actScl = 0 ∨ s.actSda = 0 := by simp [unconf]

/-- An engine command with a pin unconfigured is its completion step alone, which writes the command's refusal. -/
theorem exec_enginePlan_unconfigured (hplan : planOf i s = enginePlan refusal ops s)
    (h : s.actScl = 0 ∨ s.actSda = 0) :
    exec i s = .next { s with err := refusal, busy := false, seq := .idle, loc := Locals.init } := by
  rw [exec_eq, hplan, enginePlan, if_pos (unconf_iff.mpr h)]
  rfl

/-- An engine command with the pins configured keeps what its operations leave, and its completion step writes the bit
and the byte they sampled, if any, and ERR = 0. -/
theorem exec_enginePlan_configured (hplan : planOf i s = enginePlan refusal ops s) (hscl : s.actScl ≠ 0)
    (hsda : s.actSda ≠ 0) {p : Pins} {d : Memory} {l : Locals} {t : List PinEvent} {e : Env}
    (hrun : runBody ops { s with loc := Locals.init } = withParts { s with loc := Locals.init } p d l t e) :
    exec i s = .next { s with
      pins := p, data := d, trace := t, env := e
      nack := l.ack.getD s.nack, rxbyte := l.rx.getD s.rxbyte
      err := .none, busy := false, seq := .idle, loc := Locals.init } := by
  rw [exec_eq, hplan, enginePlan, if_neg (mt unconf_iff.mp (not_or.mpr ⟨hscl, hsda⟩)), runPlan, finish, hrun]
  rfl
end

/-- Settles O18: each of the six commands is guarded by the pins, with its own refusal. -/
theorem unconfiguredPinsGuard : Obligations.UnconfiguredPinsGuard := by
  refine fun s b h => ⟨fun i hi => ?silent, fun i hi => ?refused⟩
  case silent =>
    simp only [List.mem_cons, List.not_mem_nil, or_false] at hi
    obtain rfl | rfl := hi <;> exact exec_enginePlan_unconfigured rfl h
  case refused =>
    simp only [List.mem_cons, List.not_mem_nil, or_false] at hi
    obtain rfl | rfl | rfl | rfl := hi <;> exact exec_enginePlan_unconfigured rfl h

-- ## Commands that sample nothing (R66 to R68, R71)

/-- Settles O12: the command is `Start`, which samples nothing. -/
theorem startDrivesDataThenClockLow : Obligations.StartDrivesDataThenClockLow :=
  fun _ hscl hsda => exec_enginePlan_configured rfl hscl hsda (runBody_start _ _ _ rfl)

/-- Settles O13: the command is `Restart`, which samples nothing. -/
theorem restartReleasesThenStarts : Obligations.RestartReleasesThenStarts :=
  fun _ hscl hsda => exec_enginePlan_configured rfl hscl hsda (runBody_restart _ _ _ rfl)

/-- Settles O14: the command is `Stop`, which samples nothing. -/
theorem stopReleasesTheBus : Obligations.StopReleasesTheBus :=
  fun _ hscl hsda => exec_enginePlan_configured rfl hscl hsda (runBody_stop _ _ _ rfl)

/-- Settles O15: the command is `Ack`, which samples nothing, behind the guard of R64. -/
theorem ackPulsesTheNinthClock : Obligations.AckPulsesTheNinthClock := by
  refine ⟨rfl, fun s => ⟨fun hscl hsda => ?configured, fun h => ?unconfigured⟩⟩
  case configured => exact exec_enginePlan_configured rfl hscl hsda (runBody_ack _ _ _ rfl)
  case unconfigured => exact exec_enginePlan_unconfigured rfl h

-- ## SEND and RECV (R69, R70)

/-- Eight bits of three events each, and the acknowledge window's five. -/
theorem sendEvents_length (w : Wires) (b : Byte) (a : Level) : (sendEvents w b a).length = 29 := by
  simp [sendEvents, List.length_flatMap]

/-- Three events for each bit, between the two changes of SDA's direction. -/
theorem recvEvents_length (w : Wires) (bits : List Bool) : (recvEvents w bits).length = 3 * bits.length + 2 := by
  simp [recvEvents, List.length_flatMap]
  omega

/-- A nack on the host's own `Send` aborts nothing, and an ack counts nothing (R69). -/
theorem afterSend_host (l : Locals) : l.afterSend .host = l := by simp [Locals.afterSend, SendRole.aborts]

/-- Settles O16: the command is `Send`, whose sample the completion step writes to NACK whichever it is. -/
theorem sendShiftsByteAndSamplesAck : Obligations.SendShiftsByteAndSamplesAck := by
  refine fun s b => ⟨encode_send b, sendEvents_length _ _ _, fun hscl hsda => ?configured, fun h => ?unconfigured⟩
  case configured =>
    have hrun := runBody_send s.actScl s.actSda { s with loc := Locals.init } b .host rfl
    rw [afterSend_host] at hrun
    exact exec_enginePlan_configured rfl hscl hsda hrun
  case unconfigured => exact exec_enginePlan_unconfigured rfl h

/-- Settles O17: the command is `Recv`, whose assembled byte the completion step writes to RXDATA. -/
theorem recvAssemblesSampledByte : Obligations.RecvAssemblesSampledByte := by
  refine ⟨rfl, fun s => ⟨?events, fun hscl hsda => ?configured, fun h => ?unconfigured⟩⟩
  case events => rw [recvEvents_length, envTake_length]
  case configured => exact exec_enginePlan_configured rfl hscl hsda (runBody_recv _ _ _ none rfl)
  case unconfigured => exact exec_enginePlan_unconfigured rfl h

end Sys2Proof.Machine

/-! PROOFS. The configuration commands OPEN, CLOSE and SETADDR as whole commands (R73 to R75). -/

namespace Sys2Proof.Machine

-- ## Commands whose plan has no tail (R17, R90)

/-- A plan without a tail is its body, then its completion step. -/
theorem exec_of_run {i : Instr} {s u : State} {body : List PinOp} {fin : Completion}
    (hplan : planOf i s = .run body [] fin) (hbody : runBody body { s with loc := Locals.init } = u) :
    exec i s = .next (complete fin u) := by
  rw [exec_eq, hplan, runPlan, finish, hbody, runTail]

/-- A command refused by its checks is its completion step alone, which writes the error. -/
theorem exec_of_refusal {i : Instr} {s : State} {e : Err} (hplan : planOf i s = planDone (.report e)) :
    exec i s = .next { s with err := e, busy := false, seq := .idle, loc := Locals.init } :=
  (exec_of_run hplan rfl).trans rfl

theorem badDescriptor_iff {s : State} :
    badDescriptor s = true ↔ s.cfgScl = 0 ∨ s.cfgSda = 0 ∨ s.cfgScl = s.cfgSda := by
  simp [badDescriptor, or_assoc]

-- ## Exports and unexports (R73, R74)

theorem envTake_one_eq {e : Env} {r : Bool} : (envTake 1 e).1 = [r] ↔ e.next.1 = r := by simp [envTake]

theorem envTake_two_eq {e : Env} {r₁ r₂ : Bool} :
    (envTake 2 e).1 = [r₁, r₂] ↔ e.next.1 = r₁ ∧ e.next.2.next.1 = r₂ := by simp [envTake]

@[simp] theorem Locals.afterUnexport_abort (l : Locals) (ok : Bool) : (l.afterUnexport ok).abort = l.abort := by
  cases ok <;> rfl

section
variable (p : Pin) (rest : List PinOp) {s : State}

/-- A successful export hands the pin over, and the body goes on. -/
theorem runBody_export_ok (h : s.loc.abort = false) (hok : s.env.next.1 = true) :
    runBody (.exportPin p :: rest) s =
      runBody rest (withParts s (s.pins.handOver p.line (Config.freeLatch s.env.draws)) s.data s.loc
        (s.trace ++ [.exported p true]) s.env.next.2) := by
  simp [runBody, doOp, pinExport, draw, emit, setLoc, Locals.afterExport, withParts, hok, h]

/-- A failed export is the last operation of the body. -/
theorem runBody_export_failed (hfailed : s.env.next.1 = false) :
    runBody (.exportPin p :: rest) s =
      withParts s s.pins s.data { s.loc with failed := true, abort := true }
        (s.trace ++ [.exported p false]) s.env.next.2 := by
  simp [runBody, doOp, pinExport, draw, emit, setLoc, Locals.afterExport, withParts, hfailed]

/-- The body goes on after an unexport whatever its result, which is noted. -/
theorem runBody_unexport (h : s.loc.abort = false) :
    runBody (.unexportPin p :: rest) s =
      runBody rest (withParts s s.pins s.data (s.loc.afterUnexport s.env.next.1)
        (s.trace ++ [.unexported p s.env.next.1]) s.env.next.2) := by
  simp [runBody, doOp, pinUnexport, draw, emit, setLoc, withParts, h]
end

-- ## OPEN (R73)

section
variable (c d : PinNum) {s : State}

/-- Both pins made outputs and then driven high, clock before data, whatever `SDA_OUT_ON_REDIRECT` is (R30). -/
theorem runBody_driveIdle (h : s.loc.abort = false) :
    runBody [.dir (wiresOf c d).scl .out, .dir (wiresOf c d).sda .out, .set (wiresOf c d).scl true,
        .set (wiresOf c d).sda true] s =
      withParts s { sclLat := true, sclDir := .out, sdaLat := true, sdaDir := .out } s.data s.loc
        (s.trace ++ [.dir ⟨.scl, c⟩ .out, .dir ⟨.sda, d⟩ .out, .level ⟨.scl, c⟩ true, .level ⟨.sda, d⟩ true])
        s.env := by
  simp [wiresOf, runBody, doOp, pinSet, pinDir, emit, Pins.setDir, Pins.setLatch, withParts, h]

/-- OPEN's body where both exports succeed: its six events, and the bus idle. -/
theorem runBody_open (h : s.loc.abort = false) (hr : (envTake 2 s.env).1 = [true, true]) :
    runBody (openOps (wiresOf c d)) s =
      withParts s { sclLat := true, sclDir := .out, sdaLat := true, sdaDir := .out } s.data s.loc
        (s.trace ++ [.exported ⟨.scl, c⟩ true, .exported ⟨.sda, d⟩ true, .dir ⟨.scl, c⟩ .out, .dir ⟨.sda, d⟩ .out,
          .level ⟨.scl, c⟩ true, .level ⟨.sda, d⟩ true]) (envTake 2 s.env).2 := by
  obtain ⟨hr₁, hr₂⟩ := envTake_two_eq.mp hr
  rw [openOps, runBody_export_ok _ _ h hr₁, runBody_export_ok, runBody_driveIdle]
  · simp [wiresOf, envTake]
  · exact h
  · exact h
  · exact hr₂

/-- OPEN's body where the export of SCL fails ends there. -/
theorem runBody_open_first_fails (hr : (envTake 1 s.env).1 = [false]) :
    runBody (openOps (wiresOf c d)) s =
      withParts s s.pins s.data { s.loc with failed := true, abort := true }
        (s.trace ++ [.exported ⟨.scl, c⟩ false]) (envTake 1 s.env).2 :=
  runBody_export_failed _ _ (envTake_one_eq.mp hr)

/-- OPEN's body where the export of SDA alone fails ends there: SCL is not handed back. -/
theorem runBody_open_second_fails (h : s.loc.abort = false) (hr : (envTake 2 s.env).1 = [true, false]) :
    runBody (openOps (wiresOf c d)) s =
      withParts s (s.pins.handOver .scl (Config.freeLatch s.env.draws)) s.data
        { s.loc with failed := true, abort := true }
        (s.trace ++ [.exported ⟨.scl, c⟩ true, .exported ⟨.sda, d⟩ false]) (envTake 2 s.env).2 := by
  obtain ⟨hr₁, hr₂⟩ := envTake_two_eq.mp hr
  rw [openOps, runBody_export_ok _ _ h hr₁, runBody_export_failed]
  · simp [wiresOf, envTake]
  · exact hr₂
end

/-- OPEN past its checks (R73). -/
theorem planOf_openBus {s : State} (hclosed : s.isOpen = false) (hgood : badDescriptor s = false) :
    planOf .openBus s = .run (openOps (wiresOf s.cfgScl s.cfgSda)) [] (.opened s.cfgScl s.cfgSda) :=
  (if_neg (ne_true_of_eq_false hclosed)).trans (if_neg (ne_true_of_eq_false hgood))

/-- Settles O19: the checks in their order, then the body by the results of its two exports. -/
theorem openFollowsItsChecks : Obligations.OpenFollowsItsChecks := by
  refine ⟨rfl, fun s => ⟨fun hopen => ?precondition, fun hclosed hbad => ?descriptor, fun hclosed hscl hsda hne => ?_⟩⟩
  case precondition => exact exec_of_refusal (if_pos hopen)
  case descriptor =>
    exact exec_of_refusal ((if_neg (ne_true_of_eq_false hclosed)).trans (if_pos (badDescriptor_iff.mpr hbad)))
  have hgood : badDescriptor s = false :=
    Bool.eq_false_iff.mpr (mt badDescriptor_iff.mp (not_or.mpr ⟨hscl, not_or.mpr ⟨hsda, hne⟩⟩))
  have hplan := planOf_openBus hclosed hgood
  refine ⟨fun hr => ?opened, fun hr => ⟨Pins.unowned, ?firstFails⟩, fun hr => ⟨Pins.unowned, ?secondFails⟩⟩
  case opened => exact exec_of_run hplan (runBody_open _ _ rfl hr)
  case firstFails => exact exec_of_run hplan (runBody_open_first_fails _ _ hr)
  case secondFails => exact exec_of_run hplan (runBody_open_second_fails _ _ rfl hr)

-- ## CLOSE (R74)

/-- CLOSE's body with a bus open: both unexports, their results noted. -/
theorem runBody_close (c d : PinNum) {s : State} {r₁ r₂ : Bool} (h : s.loc.abort = false)
    (hr : (envTake 2 s.env).1 = [r₁, r₂]) :
    runBody (closeOps (wiresOf c d)) s =
      withParts s s.pins s.data ((s.loc.afterUnexport r₁).afterUnexport r₂)
        (s.trace ++ [.unexported ⟨.scl, c⟩ r₁, .unexported ⟨.sda, d⟩ r₂]) (envTake 2 s.env).2 := by
  obtain ⟨rfl, rfl⟩ := envTake_two_eq.mp hr
  rw [closeOps, runBody_unexport _ _ h, runBody_unexport]
  · simp [wiresOf, envTake, runBody]
  · simpa using h

theorem planOf_closeBus_of_open {s : State} (hopen : s.isOpen = true) :
    planOf .closeBus s = .run (closeOps (wiresOf s.actScl s.actSda)) [] .closed := by
  rw [planOf, planClose, if_pos hopen, activeWires_eq]

theorem planOf_closeBus_of_closed {s : State} (hclosed : s.isOpen = false) : planOf .closeBus s = planDone .closed := by
  rw [planOf, planClose, if_neg (ne_true_of_eq_false hclosed), planDone]

/-- After CLOSE's completion step LINES reads 0 (R25). -/
theorem linesWord_complete_closed (s : State) : linesWord (complete .closed s) = 0 := rfl

/-- Settles O20: with a bus open the body is both unexports, and with none it is empty. -/
theorem closeReleasesAndClears : Obligations.CloseReleasesAndClears := by
  refine ⟨rfl, fun s => ⟨fun r₁ r₂ hopen hr => ?opened, fun hclosed => ?closed⟩⟩
  case opened =>
    have hexec := exec_of_run (planOf_closeBus_of_open hopen) (runBody_close _ _ rfl hr)
    refine ⟨Pins.unowned, _, hexec, linesWord_complete_closed _, ?_⟩
    cases r₁ <;> cases r₂ <;> rfl
  case closed =>
    have hexec := exec_of_run (planOf_closeBus_of_closed hclosed) rfl
    refine ⟨Pins.unowned, _, hexec, linesWord_complete_closed _, ?_⟩
    simp [runBody, complete, commit, commitClose, toIdle, Locals.init, hclosed]

-- ## SETADDR (R75)

/-- A 7-bit address above a 0 bit is the byte of the address shifted left by one. -/
theorem append_zero_eq_shiftLeft : ∀ a7 : BitVec 7, a7 ++ 0#1 = a7.setWidth 8 <<< 1 := by decide

theorem planOf_setaddr_of_open {s : State} (a7 : BitVec 7) (hopen : s.isOpen = true) :
    planOf (.setaddr a7) s = planDone (.setAddr a7) := if_pos hopen

/-- Settles O21: one check, then a completion step that writes SADDR. -/
theorem setAddrStoresShiftedAddress : Obligations.SetAddrStoresShiftedAddress := by
  refine fun s a7 => ⟨encode_setaddr a7, fun hopen => ?opened, fun hclosed => ?closed⟩
  case opened =>
    rw [← append_zero_eq_shiftLeft]
    exact (exec_of_run (planOf_setaddr_of_open a7 hopen) rfl).trans rfl
  case closed => exact exec_of_refusal (if_neg (ne_true_of_eq_false hclosed))

end Sys2Proof.Machine

/-! PROOFS. The checks of the generic accesses ACCESS.W and ACCESS.R, and the plans of those that pass them (R78, R82,
R83, R86). -/

namespace Sys2Proof.Machine

open Claims (IsAccess)

-- ## The precondition (R78)

theorem accessBlocked_iff {s : State} : accessBlocked s = true ↔ s.isOpen = false ∨ s.saddr = 0 := by
  simp [accessBlocked]

theorem not_accessBlocked {s : State} (hopen : s.isOpen = true) (haddr : s.saddr ≠ 0) : ¬ accessBlocked s = true :=
  mt accessBlocked_iff.mp (not_or.mpr ⟨ne_false_of_eq_true hopen, haddr⟩)

/-- Settles O22: the precondition is the first check of both commands. -/
theorem accessPrecondition : Obligations.AccessPrecondition := by
  rintro s i ⟨size, len, cmdb, rfl | rfl⟩ h
  · exact exec_of_refusal (if_pos (accessBlocked_iff.mpr h))
  · exact exec_of_refusal (if_pos (accessBlocked_iff.mpr h))

/-- After CLOSE no bus is open, whether one was or not (R74). -/
theorem exec_closeBus_isOpen {s t : State} (h : exec .closeBus s = .next t) : t.isOpen = false := by
  rw [exec_eq] at h
  cases h
  rfl

/-- Settles O30: CLOSE leaves no bus open, which is what the precondition refuses. -/
theorem closeThenAccessFails : Obligations.CloseThenAccessFails :=
  fun _ t i hi hclose => accessPrecondition t i hi (.inl (exec_closeBus_isOpen hclose))

-- ## The payload of ACCESS.W (R37, R82)

/-- There is no payload exactly where a byte of it is UNSET. -/
theorem payloadFrom_eq_none_iff {m : Memory} {i n : Nat} :
    payloadFrom m i n = none ↔ ∃ j < n, memRead m (i + j) = none := by
  induction n generalizing i with
  | zero => simp [payloadFrom]
  | succ n ih =>
    have hrest : (∃ j < n, memRead m (i + 1 + j) = none) ↔ ∃ j < n, memRead m (i + (j + 1)) = none := by
      simp only [Nat.add_assoc, Nat.add_comm 1]
    rw [Nat.exists_lt_succ_left, ← hrest, ← ih, payloadFrom, Nat.add_zero]
    cases memRead m i <;> cases payloadFrom m (i + 1) n <;> simp

/-- The payload is the bytes that stand in DATA. -/
theorem payloadFrom_eq_some {m : Memory} {i : Nat} {bytes : List Byte}
    (h : ∀ j, (hj : j < bytes.length) → memRead m (i + j) = some bytes[j]) :
    payloadFrom m i bytes.length = some bytes := by
  induction bytes generalizing i with
  | nil => rfl
  | cons b bytes ih =>
    have hfirst : memRead m i = some b := h 0 (Nat.zero_lt_succ _)
    have hrest : payloadFrom m (i + 1) bytes.length = some bytes := ih fun j hj => by
      rw [Nat.add_assoc, Nat.add_comm 1]
      exact h (j + 1) (Nat.succ_lt_succ hj)
    rw [List.length_cons, payloadFrom, hfirst, hrest]

/-- Settles O24: with a byte UNSET there is no payload, so the plan is the model fault. -/
theorem unsetPayloadIsAFault : Obligations.UnsetPayloadIsAFault := by
  intro s size len cmdb i hopen haddr hi hunset
  have hnone : payload s (payloadLen size len) = none :=
    payloadFrom_eq_none_iff.mpr ⟨i, hi, by rwa [Nat.zero_add]⟩
  have hplan : planOf (.accessW size len cmdb) s = .fault .unsetData := by
    rw [planOf, planAccessW, if_neg (not_accessBlocked hopen haddr), hnone]
  rw [exec_eq, hplan]
  rfl

-- ## The plans past the checks (R82, R83)

/-- The bytes ACCESS.W sends, each with its role (R81, R82). -/
def writeSends (aw cmdb : Byte) (bytes : List Byte) : List (Byte × SendRole) :=
  (aw, .addrWrite) :: (if bytes = [] then [] else (cmdb, .command) :: bytes.map (·, .data))

/-- The bytes ACCESS.R sends before its repeated start, each with its role (R81, R83). -/
def readSends (aw cmdb : Byte) (len : Nat) : List (Byte × SendRole) :=
  (aw, .addrWrite) :: (if len = 0 then [] else [(cmdb, .command)])

theorem accessWriteBody_eq (w : Wires) (aw cmdb : Byte) (bytes : List Byte) :
    accessWriteBody w aw cmdb bytes = startOps w ++ sendAllOps w (writeSends aw cmdb bytes) := by
  cases bytes <;> simp [accessWriteBody, writeSends, sendAllOps, List.flatMap_map]

theorem accessReadBody_eq_sends (w : Wires) (aw ar cmdb : Byte) (len : Nat) :
    accessReadBody w aw ar cmdb len =
      startOps w ++ sendAllOps w (readSends aw cmdb len) ++ restartOps w ++ sendAllOps w [(ar, .addrRead)] ++
        readBytesOps w 0 len := by
  cases len <;> simp [accessReadBody, readSends, sendAllOps]

section
variable {s : State} (size : SizeClass) (len cmdb : BitVec 8) (hopen : s.isOpen = true) (haddr : s.saddr ≠ 0)
include hopen haddr

theorem planOf_accessW {bytes : List Byte} (hpayload : payload s (payloadLen size len) = some bytes) :
    planOf (.accessW size len cmdb) s =
      .run (startOps (activeWires s) ++ sendAllOps (activeWires s) (writeSends (addrWriteByte s) cmdb bytes))
        (stopOps (activeWires s)) .access := by
  rw [← accessWriteBody_eq, planOf, planAccessW, if_neg (not_accessBlocked hopen haddr), hpayload]

theorem planOf_accessR :
    planOf (.accessR size len cmdb) s =
      .run (startOps (activeWires s) ++
          sendAllOps (activeWires s) (readSends (addrWriteByte s) cmdb (payloadLen size len)) ++
          restartOps (activeWires s) ++ sendAllOps (activeWires s) [(addrReadByte s, .addrRead)] ++
          readBytesOps (activeWires s) 0 (payloadLen size len))
        (stopOps (activeWires s)) .access := by
  rw [planOf, planAccessR, if_neg (not_accessBlocked hopen haddr), accessReadBody_eq_sends]
end

/-- An ACCESS that passes its checks is `Start`, more operations, and `Stop` on every path (R81). -/
theorem planOf_access_start_stop {i : Instr} {s : State} (hi : IsAccess i) (hopen : s.isOpen = true)
    (haddr : s.saddr ≠ 0)
    (hset : ∀ size len cmdb, i = .accessW size len cmdb → ∀ j, j < payloadLen size len → memRead s.data j ≠ none) :
    ∃ ops, planOf i s = .run (startOps (activeWires s) ++ ops) (stopOps (activeWires s)) .access := by
  obtain ⟨size, len, cmdb, rfl | rfl⟩ := hi
  · cases hpayload : payload s (payloadLen size len) with
    | none =>
      obtain ⟨j, hj, hunset⟩ := payloadFrom_eq_none_iff.mp hpayload
      exact absurd (Nat.zero_add j ▸ hunset) (hset size len cmdb rfl j hj)
    | some bytes => exact ⟨_, planOf_accessW size len cmdb hopen haddr hpayload⟩
  · have hplan := planOf_accessR size len cmdb hopen haddr
    simp only [List.append_assoc] at hplan
    exact ⟨_, hplan⟩

/-- Settles O29: whatever the operations after `Start` leave, the tail is `Stop`, and the completion step keeps what it
drives. -/
theorem everyAccessEndsWithStop : Obligations.EveryAccessEndsWithStop := by
  intro s t i hi hopen haddr hset h
  obtain ⟨ops, hplan⟩ := planOf_access_start_stop hi hopen haddr hset
  have hstart := runBody_start s.actScl s.actSda { s with loc := Locals.init } rfl
  rw [exec_eq, hplan, runPlan, finish, activeWires_eq, runBody_append, hstart, if_neg (by simp [Locals.init]),
    runTail_stop] at h
  cases h
  obtain ⟨es, htrace, -⟩ := runBody_trace ops (withParts { s with loc := Locals.init }
    { s.pins with sclLat := false, sdaLat := false } s.data Locals.init
    (s.trace ++ startEvents (wiresOf s.actScl s.actSda)) s.env)
  refine ⟨rfl, rfl, rfl, es, ?_⟩
  rw [complete_trace, withParts_trace, htrace, withParts_trace, activeWires_eq]
  simp only [List.append_assoc]

end Sys2Proof.Machine

/-! PROOFS. The bodies of the generic accesses, procedure by procedure, and ACCESS.W as a whole command: every byte
acknowledged, and the first nack (R81, R82). -/

namespace Sys2Proof.Machine

open Claims (stoppedPins)

-- ## What the procedures of an access leave (R81)

/-- From the start of a command these operations run to their end, or to an abort, and leave these parts. SCL keeps its
direction, and SDA is an output once an acknowledge bit was sampled. -/
def BodyLeaves (ops : List PinOp) (s : State) (m : Memory) (l : Locals) (t : List PinEvent) (e : Env) : Prop :=
  ∃ p, runBody ops { s with loc := Locals.init } = withParts { s with loc := Locals.init } p m l t e ∧
    p.sclDir = s.pins.sclDir ∧ (l.ack ≠ none → p.sdaDir = .out)

theorem runBody_append_of_go {xs : List PinOp} (ys : List PinOp) {s u : State} (h : runBody xs s = u)
    (hgo : u.loc.abort = false) : runBody (xs ++ ys) s = runBody ys u := by
  rw [runBody_append, h, if_neg (by simp [hgo])]

theorem runBody_append_of_abort {xs : List PinOp} (ys : List PinOp) {s u : State} (h : runBody xs s = u)
    (hs : s.loc.abort = false) (hu : u.loc.abort = true) : runBody (xs ++ ys) s = u := by
  have hne : xs ≠ [] := by
    rintro rfl
    rw [← h, runBody, hs] at hu
    cases hu
  rw [runBody_append, h, if_pos ⟨hne, hu⟩]

theorem sendAllOps_append_cons (w : Wires) (xs : List (Byte × SendRole)) (b : Byte) (r : SendRole)
    (rest : List (Byte × SendRole)) :
    sendAllOps w (xs ++ (b, r) :: rest) = sendAllOps w xs ++ (sendOps w b r ++ sendAllOps w rest) := by
  simp [sendAllOps]

section
variable {s : State} {ops : List PinOp} {m : Memory} {l : Locals} {t : List PinEvent} {e : Env}

theorem bodyLeaves_start :
    BodyLeaves (startOps (activeWires s)) s s.data Locals.init (s.trace ++ startEvents (activeWires s)) s.env :=
  ⟨_, runBody_start s.actScl s.actSda { s with loc := Locals.init } rfl, rfl, fun hack => absurd rfl hack⟩

theorem BodyLeaves.restart (h : BodyLeaves ops s m l t e) (hgo : l.abort = false) :
    BodyLeaves (ops ++ restartOps (activeWires s)) s m l (t ++ restartEvents (activeWires s)) e := by
  obtain ⟨p, hrun, hscl, hsda⟩ := h
  exact ⟨_, (runBody_append_of_go _ hrun hgo).trans (runBody_restart s.actScl s.actSda _ hgo), hscl, hsda⟩

/-- A run of acknowledged `Send`s (R81, R82). -/
theorem BodyLeaves.sends_acked (h : BodyLeaves ops s m l t e) (hgo : l.abort = false) {xs : List (Byte × SendRole)}
    (hne : xs ≠ []) (he : (envTake xs.length e).1 = List.replicate xs.length false) :
    BodyLeaves (ops ++ sendAllOps (activeWires s) xs) s m
      { l with ack := some false, count := l.count + BitVec.ofNat 8 (dataSends xs) }
      (t ++ sendAllEvents (activeWires s) xs) (envTake xs.length e).2 := by
  obtain ⟨p, hrun, hscl, -⟩ := h
  obtain ⟨p', hsends, hscl', -, hsda⟩ := runBody_sends_acked s.actScl s.actSda xs (withParts _ p m l t e) hgo he
  refine ⟨p', ?_, hscl'.trans hscl, fun _ => hsda hne⟩
  rw [runBody_append_of_go _ hrun hgo, activeWires_eq, hsends, if_neg hne]
  rfl

/-- A run of `Send`s whose first nack is that of `b`, the last one to run (R81). -/
theorem BodyLeaves.sends_nacked (h : BodyLeaves ops s m l t e) (hgo : l.abort = false) {xs : List (Byte × SendRole)}
    {b : Byte} {r : SendRole} (hr : r ≠ .host)
    (he : (envTake (xs.length + 1) e).1 = List.replicate xs.length false ++ [true]) (rest : List (Byte × SendRole)) :
    BodyLeaves (ops ++ sendAllOps (activeWires s) (xs ++ (b, r) :: rest)) s m
      { l with
        ack := some true, count := l.count + BitVec.ofNat 8 (dataSends xs), abort := true, phase := r.failPhase }
      (t ++ sendAllEvents (activeWires s) xs ++ sendEvents (activeWires s) b true) (envTake (xs.length + 1) e).2 := by
  obtain ⟨p, hrun, hscl, -⟩ := h
  obtain ⟨p', hsends, hscl', hsda⟩ := runBody_sends_nacked s.actScl s.actSda xs b r
    (sendAllOps (activeWires s) rest) hr (withParts { s with loc := Locals.init } p m l t e) hgo he
  refine ⟨p', ?_, hscl'.trans hscl, fun _ => hsda⟩
  rw [runBody_append_of_go _ hrun hgo, sendAllOps_append_cons]
  exact hsends

/-- After a nack the rest of the body is skipped (R81). -/
theorem BodyLeaves.skip (h : BodyLeaves ops s m l t e) (habort : l.abort = true) (rest : List PinOp) :
    BodyLeaves (ops ++ rest) s m l t e := by
  obtain ⟨p, hrun, hscl, hsda⟩ := h
  exact ⟨p, runBody_append_of_abort rest hrun rfl habort, hscl, hsda⟩

/-- The data phase of ACCESS.R (R83). -/
theorem BodyLeaves.reads (h : BodyLeaves ops s m l t e) (hgo : l.abort = false) {bytes : List Byte}
    (hlen : bytes.length ≤ 256) (he : (envTake (8 * bytes.length) e).1 = bytes.flatMap wireOrder) :
    ∃ sh, BodyLeaves (ops ++ readBytesOps (activeWires s) 0 bytes.length) s (storeBytes m 0 bytes)
      { l with
        shift := sh, rx := if bytes = [] then l.rx else bytes.getLast?
        count := l.count + BitVec.ofNat 8 bytes.length }
      (t ++ readEvents (activeWires s) bytes) (envTake (8 * bytes.length) e).2 := by
  obtain ⟨p, hrun, hscl, hsda⟩ := h
  obtain ⟨p', sh, hreads, hscl', hempty, hsda'⟩ :=
    runBody_reads s.actScl s.actSda bytes 0 (withParts _ p m l t e) (by rwa [Nat.zero_add]) hgo he
  refine ⟨sh, p', ?_, hscl'.trans hscl, fun hack => ?_⟩
  · rw [runBody_append_of_go _ hrun hgo, activeWires_eq, hreads]
    rfl
  · by_cases hb : bytes = []
    · rw [hempty hb]
      exact hsda hack
    · exact hsda' hb
end

/-- An access is what its body leaves, then `Stop`, then `Finish` or `Fail` (R81). -/
theorem exec_of_bodyLeaves {i : Instr} {s : State} {ops : List PinOp} {m : Memory} {l : Locals} {t : List PinEvent}
    {e : Env} (hplan : planOf i s = .run ops (stopOps (activeWires s)) .access) (h : BodyLeaves ops s m l t e)
    (hack : l.ack ≠ none) :
    exec i s = .next { s with
      pins := stoppedPins s.pins, data := m, trace := t ++ stopEvents (activeWires s), env := e
      nack := l.ack.getD s.nack, rxbyte := l.rx.getD s.rxbyte, nphase := l.phase, xcount := l.count
      err := if l.phase = .none then .none else .nack
      busy := false, seq := .idle, loc := Locals.init } := by
  obtain ⟨p, hrun, hscl, hsda⟩ := h
  have hpins : { p with sclLat := true, sdaLat := true } = stoppedPins s.pins := by
    rw [stoppedPins, ← hscl, ← hsda hack]
  rw [exec_eq, hplan, runPlan, finish, hrun, activeWires_eq, runTail_stop, ← hpins]
  rfl

-- ## ACCESS.W (R82)

/-- The role of the `k`-th byte ACCESS.W sends (R81, R82). -/
def writeRole (k : Nat) : SendRole :=
  match k with
  | 0 => .addrWrite
  | 1 => .command
  | _ + 2 => .data

theorem writeRole_ne_host (k : Nat) : writeRole k ≠ .host := by
  match k with
  | 0 | 1 | _ + 2 => simp [writeRole]

theorem failPhase_writeRole (k : Nat) : (writeRole k).failPhase = writePhase k := by
  match k with
  | 0 | 1 | _ + 2 => rfl

theorem writePhase_ne_none (k : Nat) : writePhase k ≠ .none := by
  match k with
  | 0 | 1 | _ + 2 => simp [writePhase]

theorem writeSends_nil (aw cmdb : Byte) : writeSends aw cmdb [] = [(aw, .addrWrite)] := rfl

theorem writeSends_ne_nil (aw cmdb : Byte) (bytes : List Byte) : writeSends aw cmdb bytes ≠ [] := List.cons_ne_nil _ _

theorem writeSends_of_ne_nil (aw cmdb : Byte) {bytes : List Byte} (h : bytes ≠ []) :
    writeSends aw cmdb bytes = (aw, .addrWrite) :: (cmdb, .command) :: bytes.map (·, .data) := by
  rw [writeSends, if_neg h]

theorem map_fst_writeSends (s : State) (cmdb : Byte) (bytes : List Byte) :
    (writeSends (addrWriteByte s) cmdb bytes).map Prod.fst = writeWire s cmdb bytes := by
  by_cases h : bytes = []
  · rw [h, writeSends_nil]
    rfl
  · rw [writeSends_of_ne_nil _ _ h, writeWire, if_neg h]
    simp [addrWriteByte, Function.comp_def]

theorem length_writeSends (s : State) (cmdb : Byte) (bytes : List Byte) :
    (writeSends (addrWriteByte s) cmdb bytes).length = (writeWire s cmdb bytes).length := by
  rw [← map_fst_writeSends, List.length_map]

theorem role_writeSends (aw cmdb : Byte) (bytes : List Byte) {k : Nat} (hk : k < (writeSends aw cmdb bytes).length) :
    (writeSends aw cmdb bytes)[k].2 = writeRole k := by
  by_cases h : bytes = []
  · subst h
    obtain rfl : k = 0 := Nat.lt_one_iff.mp hk
    rfl
  · simp only [writeSends_of_ne_nil aw cmdb h]
    match k with
    | 0 | 1 => rfl
    | k + 2 => simp [writeRole]

theorem dataSends_writeSends (aw cmdb : Byte) (bytes : List Byte) :
    dataSends (writeSends aw cmdb bytes) = bytes.length := by
  by_cases h : bytes = []
  · rw [h]
    rfl
  · simp [writeSends_of_ne_nil aw cmdb h, dataSends, List.countP_map, Function.comp_def]

/-- All the bytes but the address and the command byte are payload. -/
theorem dataSends_take_writeSends (aw cmdb : Byte) (bytes : List Byte) {k : Nat}
    (hk : k < (writeSends aw cmdb bytes).length) : dataSends ((writeSends aw cmdb bytes).take k) = k - 2 := by
  match k with
  | 0 => rfl
  | 1 => rfl
  | k + 2 =>
    have hne : bytes ≠ [] := by
      rintro rfl
      simp [writeSends_nil] at hk
    rw [writeSends_of_ne_nil aw cmdb hne] at hk ⊢
    have hle : k ≤ bytes.length := Nat.le_of_lt (by simpa using hk)
    simp [dataSends, ← List.map_take, List.countP_map, Function.comp_def, hle]

/-- What ACCESS.W sends, cut at the `k`-th byte. -/
theorem writeSends_split (s : State) (cmdb : Byte) (bytes : List Byte) {k : Nat}
    (hk : k < (writeWire s cmdb bytes).length) :
    (writeSends (addrWriteByte s) cmdb bytes).take k ++
        ((writeWire s cmdb bytes)[k], writeRole k) :: (writeSends (addrWriteByte s) cmdb bytes).drop (k + 1) =
      writeSends (addrWriteByte s) cmdb bytes := by
  have hk' : k < (writeSends (addrWriteByte s) cmdb bytes).length := by rwa [length_writeSends]
  have hsend : (writeSends (addrWriteByte s) cmdb bytes)[k] = ((writeWire s cmdb bytes)[k], writeRole k) := by
    refine Prod.ext ?_ (role_writeSends _ _ _ hk')
    simp only [← map_fst_writeSends, List.getElem_map]
  rw [← hsend, ← List.drop_eq_getElem_cons, List.take_append_drop]

theorem payload_eq_some {s : State} {size : SizeClass} {len : BitVec 8} {bytes : List Byte}
    (hlen : bytes.length = payloadLen size len)
    (hset : ∀ i, (h : i < bytes.length) → memRead s.data i = some bytes[i]) :
    payload s (payloadLen size len) = some bytes := by
  rw [payload, ← hlen]
  exact payloadFrom_eq_some fun j hj => by rw [Nat.zero_add, hset j hj]

/-- Settles O25: the body is `Start` and a run of acknowledged `Send`s. -/
theorem accessWriteSucceeds : Obligations.AccessWriteSucceeds := by
  intro s size len cmdb bytes hopen haddr hlen hset he
  have hplan := planOf_accessW size len cmdb hopen haddr (payload_eq_some hlen hset)
  rw [← length_writeSends] at he
  have hbody := bodyLeaves_start.sends_acked rfl (writeSends_ne_nil _ _ _) he
  rw [exec_of_bodyLeaves hplan hbody (Option.some_ne_none _)]
  simp [Locals.init, dataSends_writeSends, hlen, sendAllEvents_eq, map_fst_writeSends, length_writeSends]

/-- Settles O26: the body is `Start` and a run of `Send`s whose first nack is the `k`-th one's. -/
theorem accessWriteNacked : Obligations.AccessWriteNacked := by
  intro s size len cmdb bytes k hopen haddr hlen hset hk he
  have hplan := planOf_accessW size len cmdb hopen haddr (payload_eq_some hlen hset)
  have hk' : k < (writeSends (addrWriteByte s) cmdb bytes).length := by rwa [length_writeSends]
  have htake : ((writeSends (addrWriteByte s) cmdb bytes).take k).length = k := List.length_take_of_le hk'.le
  have hbody := bodyLeaves_start.sends_nacked rfl (writeRole_ne_host k) (b := (writeWire s cmdb bytes)[k])
    (xs := (writeSends (addrWriteByte s) cmdb bytes).take k) (by rwa [htake])
    ((writeSends (addrWriteByte s) cmdb bytes).drop (k + 1))
  rw [writeSends_split s cmdb bytes hk, htake, dataSends_take_writeSends _ _ _ hk', failPhase_writeRole] at hbody
  rw [exec_of_bodyLeaves hplan hbody (Option.some_ne_none _)]
  simp [Locals.init, sendAllEvents_eq, List.map_take, map_fst_writeSends, writePhase_ne_none]

end Sys2Proof.Machine

/-! PROOFS. ACCESS.R as a whole command: every byte acknowledged, and a nack on any byte it sends (R81, R83). -/

namespace Sys2Proof.Machine

-- ## The environment's answers in parts

theorem envTake_add_snd (m n : Nat) (e : Env) : (envTake (m + n) e).2 = (envTake n (envTake m e).2).2 := by
  rw [envTake_add]

theorem envTake_add_eq_append {m n : Nat} {e : Env} {xs ys : List Bool} (hxs : xs.length = m)
    (h : (envTake (m + n) e).1 = xs ++ ys) : (envTake m e).1 = xs ∧ (envTake n (envTake m e).2).1 = ys := by
  rw [envTake_add] at h
  exact List.append_inj h (by rw [envTake_length, hxs])

-- ## Short runs of Sends

@[simp] theorem sendAllEvents_nil (w : Wires) : sendAllEvents w [] = [] := rfl

@[simp] theorem sendAllEvents_singleton (w : Wires) (b : Byte) (r : SendRole) :
    sendAllEvents w [(b, r)] = sendEvents w b false := by simp [sendAllEvents]

@[simp] theorem dataSends_nil : dataSends [] = 0 := rfl

@[simp] theorem dataSends_singleton (b : Byte) (r : SendRole) : dataSends [(b, r)] = if r = .data then 1 else 0 := by
  simp [dataSends, List.countP_singleton]

-- ## ACCESS.R (R83)

theorem readSends_ne_nil (aw cmdb : Byte) (len : Nat) : readSends aw cmdb len ≠ [] := List.cons_ne_nil _ _

theorem readSends_of_eq_zero (aw cmdb : Byte) {len : Nat} (h : len = 0) :
    readSends aw cmdb len = [(aw, .addrWrite)] := by
  rw [readSends, if_pos h]

theorem readSends_of_ne_zero (aw cmdb : Byte) {len : Nat} (h : len ≠ 0) :
    readSends aw cmdb len = [(aw, .addrWrite), (cmdb, .command)] := by
  rw [readSends, if_neg h]

/-- Neither address nor command byte is payload. -/
theorem dataSends_readSends (aw cmdb : Byte) (len : Nat) : dataSends (readSends aw cmdb len) = 0 := by
  by_cases h : len = 0
  · rw [readSends_of_eq_zero aw cmdb h]
    rfl
  · rw [readSends_of_ne_zero aw cmdb h]
    rfl

theorem sendAllEvents_readSends (w : Wires) (aw cmdb : Byte) (len : Nat) :
    sendAllEvents w (readSends aw cmdb len) =
      sendEvents w aw false ++ (if len = 0 then [] else sendEvents w cmdb false) := by
  by_cases h : len = 0
  · rw [readSends_of_eq_zero aw cmdb h, if_pos h, sendAllEvents_singleton, List.append_nil]
  · rw [readSends_of_ne_zero aw cmdb h, if_neg h]
    simp [sendAllEvents]

/-- ACCESS.R up to its repeated start, with every byte acknowledged. -/
theorem bodyLeaves_readStart {s : State} (aw cmdb : Byte) (len : Nat)
    (he : (envTake (readSends aw cmdb len).length s.env).1 = List.replicate (readSends aw cmdb len).length false) :
    BodyLeaves (startOps (activeWires s) ++ sendAllOps (activeWires s) (readSends aw cmdb len) ++
        restartOps (activeWires s)) s s.data { Locals.init with ack := some false }
      (s.trace ++ startEvents (activeWires s) ++ sendAllEvents (activeWires s) (readSends aw cmdb len) ++
        restartEvents (activeWires s))
      (envTake (readSends aw cmdb len).length s.env).2 := by
  have h := (bodyLeaves_start.sends_acked rfl (readSends_ne_nil aw cmdb len) he).restart rfl
  rw [dataSends_readSends] at h
  exact h

section
variable {s : State} {size : SizeClass} {len cmdb : BitVec 8} (hopen : s.isOpen = true) (haddr : s.saddr ≠ 0)
include hopen haddr

/-- ACCESS.R with a nack before its repeated start, on the byte `b`. -/
theorem exec_accessR_nacked_before_restart {xs rest : List (Byte × SendRole)} {b : Byte} {r : SendRole}
    (hr : r ≠ .host) (hsends : xs ++ (b, r) :: rest = readSends (addrWriteByte s) cmdb (payloadLen size len))
    (he : (envTake (xs.length + 1) s.env).1 = List.replicate xs.length false ++ [true]) :
    exec (.accessR size len cmdb) s = .next { s with
      pins := Claims.stoppedPins s.pins
      trace := s.trace ++ startEvents (activeWires s) ++ sendAllEvents (activeWires s) xs ++
        sendEvents (activeWires s) b true ++ stopEvents (activeWires s)
      env := (envTake (xs.length + 1) s.env).2
      nack := true, nphase := r.failPhase, xcount := BitVec.ofNat 8 (dataSends xs)
      err := if r.failPhase = .none then .none else .nack
      busy := false, seq := .idle, loc := Locals.init } := by
  have hplan := planOf_accessR size len cmdb hopen haddr
  rw [← hsends] at hplan
  have hnacked := bodyLeaves_start.sends_nacked (b := b) rfl hr he rest
  rw [exec_of_bodyLeaves hplan (((hnacked.skip rfl _).skip rfl _).skip rfl _) (Option.some_ne_none _)]
  simp [Locals.init]

/-- ACCESS.R with a nack on its address in the read direction. -/
theorem exec_accessR_nacked_after_restart {n : Nat}
    (hn : (readSends (addrWriteByte s) cmdb (payloadLen size len)).length = n)
    (he : (envTake (n + 1) s.env).1 = List.replicate n false ++ [true]) :
    exec (.accessR size len cmdb) s = .next { s with
      pins := Claims.stoppedPins s.pins
      trace := s.trace ++ (startEvents (activeWires s) ++
        sendAllEvents (activeWires s) (readSends (addrWriteByte s) cmdb (payloadLen size len)) ++
        restartEvents (activeWires s) ++ sendEvents (activeWires s) (addrReadByte s) true ++
        stopEvents (activeWires s))
      env := (envTake (n + 1) s.env).2
      nack := true, nphase := .addrRead, xcount := 0
      err := .nack, busy := false, seq := .idle, loc := Locals.init } := by
  subst hn
  obtain ⟨hsent, hnack⟩ := envTake_add_eq_append List.length_replicate he
  have hbody := ((bodyLeaves_readStart _ _ _ hsent).sends_nacked rfl (xs := []) (b := addrReadByte s) (r := .addrRead)
    (by decide) hnack []).skip rfl (readBytesOps (activeWires s) 0 (payloadLen size len))
  rw [exec_of_bodyLeaves (planOf_accessR size len cmdb hopen haddr) hbody (Option.some_ne_none _),
    envTake_add_snd _ 1 s.env]
  simp [Locals.init, SendRole.failPhase]
end

/-- Settles O28: a nack before the repeated start, on either byte, or after it, with and without a command byte. -/
theorem accessReadNacked : Obligations.AccessReadNacked := by
  intro s size len cmdb hopen haddr
  refine ⟨fun he => ?addrWrite, fun hlen he => ?command, fun hlen he => ?addrRead, fun hlen he => ?quick⟩
  case addrWrite =>
    rw [exec_accessR_nacked_before_restart hopen haddr (xs := []) (r := .addrWrite) (by decide) rfl he]
    simp [SendRole.failPhase, addrWriteByte]
  case command =>
    rw [exec_accessR_nacked_before_restart hopen haddr (xs := [(addrWriteByte s, .addrWrite)]) (r := .command)
      (by decide) (readSends_of_ne_zero _ cmdb hlen).symm he]
    simp [SendRole.failPhase, addrWriteByte]
  case addrRead =>
    rw [exec_accessR_nacked_after_restart hopen haddr (by rw [readSends_of_ne_zero _ cmdb hlen]; rfl) he]
    simp [sendAllEvents_readSends, hlen, addrWriteByte, addrReadByte]
  case quick =>
    rw [exec_accessR_nacked_after_restart hopen haddr (by rw [readSends_of_eq_zero _ cmdb hlen]; rfl) he]
    simp [sendAllEvents_readSends, hlen, addrWriteByte, addrReadByte]

/-- The acknowledges ACCESS.R samples: those before its repeated start, and that of its address for reading. -/
theorem readAcks_eq_replicate (aw cmdb : Byte) (bytes : List Byte) :
    (if bytes = [] then [false, false] else [false, false, false]) =
      List.replicate (readSends aw cmdb bytes.length).length false ++ [false] := by
  by_cases h : bytes = []
  · rw [if_pos h, readSends_of_eq_zero _ _ (List.length_eq_zero_iff.mpr h)]
    rfl
  · rw [if_neg h, readSends_of_ne_zero _ _ (mt List.length_eq_zero_iff.mp h)]
    rfl

/-- The whole body of ACCESS.R with every address and command byte acknowledged. -/
theorem bodyLeaves_read {s : State} (aw ar cmdb : Byte) {bytes : List Byte} {n : Nat}
    (hn : (readSends aw cmdb bytes.length).length = n) (hlen : bytes.length ≤ 256)
    (he : (envTake (n + 1 + 8 * bytes.length) s.env).1 =
      List.replicate n false ++ [false] ++ bytes.flatMap wireOrder) :
    ∃ sh, BodyLeaves (startOps (activeWires s) ++ sendAllOps (activeWires s) (readSends aw cmdb bytes.length) ++
        restartOps (activeWires s) ++ sendAllOps (activeWires s) [(ar, .addrRead)] ++
        readBytesOps (activeWires s) 0 bytes.length) s (storeBytes s.data 0 bytes)
      { Locals.init with
        ack := some false, shift := sh, rx := bytes.getLast?, count := BitVec.ofNat 8 bytes.length }
      (s.trace ++ startEvents (activeWires s) ++
        (sendEvents (activeWires s) aw false ++ if bytes = [] then [] else sendEvents (activeWires s) cmdb false) ++
        restartEvents (activeWires s) ++ sendEvents (activeWires s) ar false ++ readEvents (activeWires s) bytes)
      (envTake (n + 1 + 8 * bytes.length) s.env).2 := by
  subst hn
  obtain ⟨hacked, hdata⟩ := envTake_add_eq_append (by simp) he
  obtain ⟨hsent, hread⟩ := envTake_add_eq_append List.length_replicate hacked
  have hlast : (if bytes = [] then none else bytes.getLast?) = bytes.getLast? := by
    split
    · rename_i h
      rw [h, List.getLast?_nil]
    · rfl
  rw [envTake_add_snd] at hdata
  rw [envTake_add_snd, envTake_add_snd]
  obtain ⟨sh, hbody⟩ := ((bodyLeaves_readStart _ _ _ hsent).sends_acked rfl (xs := [(ar, .addrRead)])
    (List.cons_ne_nil _ _) hread).reads rfl hlen hdata
  refine ⟨sh, ?_⟩
  simpa [Locals.init, hlast, sendAllEvents_readSends] using hbody

/-- Settles O27: the body with every byte acknowledged, after which `Finish` writes the results. -/
theorem accessReadSucceeds : Obligations.AccessReadSucceeds := by
  intro s size len cmdb bytes acks hopen haddr hlen hacks he
  have hplan := planOf_accessR size len cmdb hopen haddr
  have hbound := payloadLen_le size len
  rw [← hlen] at hplan hbound ⊢
  have hall := hacks.trans (readAcks_eq_replicate (addrWriteByte s) cmdb bytes)
  rw [hall, List.length_append, List.length_replicate, List.length_singleton] at he
  obtain ⟨sh, hbody⟩ := bodyLeaves_read (addrWriteByte s) (addrReadByte s) cmdb rfl (by omega) he
  rw [exec_of_bodyLeaves hplan hbody (Option.some_ne_none _)]
  simp [Locals.init, hall, addrWriteByte, addrReadByte]

end Sys2Proof.Machine

/-! PROOFS. The results of the pseudo-instructions, from the values the host read (R85). -/

namespace Sys2Proof.Machine

section
variable {st : Word} (w : Word)

theorem valueResult_of_ok (mask : Word) (h : statusOk st = true) : valueResult mask [st, w] = w &&& mask := if_pos h

theorem statusResult_of_ok {reads : List Word} (hlast : reads.getLast? = some st) (h : statusOk st = true) :
    statusResult reads = 0 := by
  rw [statusResult, hlast]
  exact if_pos h

theorem statusResult_of_not_ok {reads : List Word} (hlast : reads.getLast? = some st) (h : statusOk st = false) :
    statusResult reads = failureResult := by
  rw [statusResult, hlast]
  exact if_neg (ne_true_of_eq_false h)

/-- A mask of the low `n` bits keeps the low `n` bits. -/
theorem and_lowMask (n : Nat) : w &&& BitVec.ofNat 32 (2 ^ n - 1) = (w.extractLsb' 0 n).setWidth 32 := by
  refine BitVec.eq_of_getLsbD_eq fun i hi => ?_
  rw [BitVec.getLsbD_and, BitVec.getLsbD_ofNat, Nat.testBit_two_pow_sub_one, BitVec.getLsbD_setWidth,
    BitVec.getLsbD_extractLsb', Nat.zero_add]
  simp only [hi, decide_true, Bool.true_and, Bool.and_comm]
end

theorem failureResult_eq : failureResult = 0xFFFFFFFF#32 := by decide

/-- Settles O60: each result by its own rule, from the last STATUS word; after a failure no value was read. -/
theorem pseudoInstructionResults : Obligations.PseudoInstructionResults := by
  intro c v st w a
  refine ⟨fun hok => ⟨?byte, ?word, fun p hp => ?done, ?probeDone⟩,
    fun hfail => ⟨fun p hp => ?failed, ?probeFailed⟩⟩
  case byte => exact (valueResult_of_ok w 0xFF hok).trans (and_lowMask w 8)
  case word => exact (valueResult_of_ok w 0xFFFF hok).trans (and_lowMask w 16)
  case probeDone => exact statusResult_of_ok (reads := [w, st]) rfl hok
  case probeFailed => exact (statusResult_of_not_ok (reads := [w, st]) rfl hfail).trans failureResult_eq
  case done =>
    have hstatus : statusResult [st] = 0 := statusResult_of_ok rfl hok
    simp only [List.mem_cons, List.not_mem_nil, or_false] at hp
    obtain rfl | rfl | rfl := hp <;> exact hstatus
  case failed =>
    have hstatus : statusResult [st] = failureResult := statusResult_of_not_ok rfl hfail
    rw [← failureResult_eq]
    simp only [List.mem_cons, List.not_mem_nil, or_false] at hp
    obtain rfl | rfl | rfl | rfl | rfl := hp
    · exact hstatus
    · rfl
    · rfl
    · exact hstatus
    · exact hstatus

end Sys2Proof.Machine

/-! PROOFS. The end of a whole command and its bound, and host writes while one runs (60_exceptions.md: R17, R88 to R90,
R101). -/

namespace Sys2Proof.Machine

-- ## Termination (R17, R101)

/-- Every plan ends with SEQ at rest, by its completion step or by a model fault (R17, R82). -/
theorem runPlan_seq (p : Plan) (s : State) : (runPlan p s).seq = .idle := by
  cases p with
  | run body tail fin => rfl
  | fault r => rfl

/-- Running a plan appends at most one event for each of its operations (R35). -/
theorem runPlan_trace (p : Plan) (s : State) :
    ∃ es, (runPlan p s).trace = s.trace ++ es ∧ es.length ≤ p.length := by
  cases p with
  | run body tail fin =>
    obtain ⟨es, hbody, hes⟩ := runBody_trace body { s with loc := Locals.init }
    obtain ⟨fs, htail, hfs⟩ := runTail_trace tail (runBody body { s with loc := Locals.init })
    refine ⟨es ++ fs, ?_, ?_⟩
    · rw [runPlan, finish, complete_trace, htail, hbody, List.append_assoc]
    · rw [List.length_append, Plan.length, hfs]
      exact Nat.add_le_add_right hes tail.length
  | fault r => exact ⟨[], (List.append_nil s.trace).symm, Nat.le_refl 0⟩

/-- Settles O31: a command is its plan, run, and no plan has more than 7741 operations. -/
theorem everyCommandCompletesInBound : Obligations.EveryCommandCompletesInBound := by
  intro s i
  have hexec := exec_eq i s
  obtain ⟨es, htrace, hes⟩ := runPlan_trace (planOf i s) s
  exact ⟨runPlan (planOf i s) s, es, hexec, exec_busy hexec, runPlan_seq (planOf i s) s, htrace,
    hes.trans (length_planOf i s)⟩

-- ## Writes while a command runs (R88 to R90)

/-- While BUSY = 1 a write inside the window marks BUSY_WRITE before any other check (R89, R90). -/
theorem hostWrite_busyWrite {off : Nat} (bytes : Nat) (v : Word) (hin : off < 0x200) {s : State} (hb : s.busy = true) :
    hostWrite off bytes v s = markFault .busyWrite s := by
  simp [hostWrite, outsideWindow_eq_false hin, hb]

/-- Settles O39: the step of the write is its mark, and the write leaves the script. -/
theorem busyWriteIsAFault : Obligations.BusyWriteIsAFault := by
  intro s off bytes v rest hf hb hin hh
  calc step s = .next (hostWrite off bytes v (popHost s)) := step_of_host_cons hf hh
    _ = .next (markFault .busyWrite { s with host := rest }) := by
      rw [hostWrite_busyWrite bytes v hin (by exact hb), popHost_of_host_cons hh]
    _ = .next { s with faulted := some .busyWrite, host := rest } := by
      rw [markFault_of_unmarked .busyWrite (by exact hf)]

end Sys2Proof.Machine

/-! PROOFS. Reset as a host action: the step it takes, and the values it leaves beside the trace (R39, R102). -/

namespace Sys2Proof.Machine

/-- The step of a reset resets the block and removes the reset from the script, whatever command runs (R102). -/
theorem step_of_reset {s : State} {rest : List HostAction} (hf : s.faulted = none) (hh : s.host = .reset :: rest) :
    step s = .next (resetAction { s with host := rest }) :=
  calc step s = .next (resetAction (popHost s)) := step_of_host_cons hf hh
    _ = .next (resetAction { s with host := rest }) := by rw [popHost_of_host_cons hh]

/-- Settles O52: the state after the step is the reset record with the trace kept, so its values are those of O51. -/
theorem resetKeepsTrace : Obligations.ResetKeepsTrace := by
  intro s rest hf hh
  obtain ⟨hbusy, hopen, hnack, herr, hphase, hxcount, hcfgScl, hcfgSda, hactScl, hactSda, hsaddr, hrxbyte, -, hlines, hdata,
    -, hfaulted⟩ := resetValues
  exact ⟨_, step_of_reset hf hh, rfl, hbusy, rfl, hopen, hnack, herr, hphase, hxcount, hcfgScl, hcfgSda, hactScl, hactSda,
    hsaddr, hrxbyte, hlines, hdata, hfaulted, rfl⟩

end Sys2Proof.Machine

/-! PROOFS. What a reader of the lines sees of START, RESTART, STOP and SEND: from pins that are both outputs, event by
event, then as whole commands (R31, R106, R109 to R112). -/

namespace Sys2Proof.Machine

-- ## Line steps of pins that are both outputs (R31)

/-- Both pins outputs, with the levels they drive. -/
def outputs (scl sda : Level) : Pins := { sclLat := scl, sclDir := .out, sdaLat := sda, sdaDir := .out }

theorem eq_outputs_of_settled {p : Pins} (h : PinsSettled p) : p = outputs p.sclLat p.sdaLat := by
  obtain ⟨sclLat, sclDir, sdaLat, sdaDir⟩ := p
  obtain ⟨rfl, rfl, -⟩ := h
  rfl

section
variable (r : Redirect) (scl sda : Level) (n k : Nat) (num : PinNum) (v : Level) (es : List PinEvent)

theorem lineSteps_outputs : lineSteps r (outputs scl sda) n es = lineStepsFrom r 1 (outputs scl sda) n sda es := rfl

/-- An event of SCL leaves SDA where it is. -/
theorem lineStepsFrom_level_scl :
    lineStepsFrom r k (outputs scl sda) n sda (.level ⟨.scl, num⟩ v :: es) =
      { event := k, sclBefore := some scl, sclAfter := some v, sdaBefore := sda, sdaAfter := sda,
        sampled := sampleInClock es } :: lineStepsFrom r (k + 1) (outputs v sda) n sda es := rfl

/-- An event of SDA leaves SCL where it is. -/
theorem lineStepsFrom_level_sda :
    lineStepsFrom r k (outputs scl sda) n sda (.level ⟨.sda, num⟩ v :: es) =
      { event := k, sclBefore := some scl, sclAfter := some scl, sdaBefore := sda, sdaAfter := v,
        sampled := sampleInClock es } :: lineStepsFrom r (k + 1) (outputs scl v) n v es := rfl

end

-- ## START, RESTART and STOP (R109 to R111)

section
variable (r : Redirect) (c d : PinNum) {scl sda : Level} (n : Nat)

/-- `Start` makes a start condition where both lines are high, and no other (R109). -/
theorem conditions_start :
    conditions r (outputs scl sda) n (startEvents (wiresOf c d)) = if scl && sda then [(1, .start)] else [] := by
  rw [conditions, lineSteps_outputs, startEvents, wiresOf, lineStepsFrom_level_sda, lineStepsFrom_level_scl]
  cases scl <;> cases sda <;> rfl

/-- `Stop` makes a stop condition where SDA is low, whatever SCL was (R111). -/
theorem conditions_stop :
    conditions r (outputs scl sda) n (stopEvents (wiresOf c d)) = if sda then [] else [(2, .stop)] := by
  rw [conditions, lineSteps_outputs, stopEvents, wiresOf, lineStepsFrom_level_scl, lineStepsFrom_level_sda]
  cases scl <;> cases sda <;> rfl

/-- `Restart` is a start on the idle bus; mid-transaction it is one clock with SDA high and a repeated start (R106, R110).
SDA is high where SCL is, so its first event is no stop condition. -/
theorem busSigns_restart (hidle : scl = true → sda = true) :
    busSigns r (outputs scl sda) n (restartEvents (wiresOf c d)) =
      if scl then [(3, .start)] else [(2, .bit true), (3, .repeatedStart)] := by
  rw [busSigns, lineSteps_outputs, restartEvents, wiresOf, lineStepsFrom_level_sda, lineStepsFrom_level_scl,
    lineStepsFrom_level_sda, lineStepsFrom_level_scl]
  cases scl with
  | true => rw [hidle rfl]; rfl
  | false => cases sda <;> rfl

/-- `Restart` makes one start condition and no stop condition (R110). -/
theorem conditions_restart (hidle : scl = true → sda = true) :
    conditions r (outputs scl sda) n (restartEvents (wiresOf c d)) = [(3, .start)] := by
  rw [← busSigns_conditions, busSigns_restart r c d n hidle]
  cases scl <;> rfl

end

-- ## The data bits of SEND (R69, R106)

/-- The three events of a data bit `v` (R69). -/
def clockEvents (w : Wires) (v : Level) : List PinEvent :=
  [.level w.sda v, .level w.scl true, .level w.scl false]

/-- The five events of the acknowledge window with the sampled bit `a` (R69). -/
def ackWindowEvents (w : Wires) (a : Level) : List PinEvent :=
  [.level w.scl true, .dir w.sda .inp, .sample w.sda a, .dir w.sda .out, .level w.scl false]

theorem sendEvents_eq (w : Wires) (b : Byte) (a : Level) :
    sendEvents w b a = (wireOrder b).flatMap (clockEvents w) ++ ackWindowEvents w a := rfl

/-- The signs of data bits whose events are numbered on from `k`: each at the rise of its clock. -/
def bitSigns (k : Nat) (bits : List Bool) : List (Nat × BusSign) :=
  match bits with
  | [] => []
  | v :: rest => (k + 1, .bit v) :: bitSigns (k + 3) rest

theorem dataSigns_append (xs ys : List (Nat × BusSign)) : dataSigns (xs ++ ys) = dataSigns xs ++ dataSigns ys :=
  List.filterMap_append

theorem dataSigns_bitSigns (k : Nat) (bits : List Bool) : dataSigns (bitSigns k bits) = bits.map .bit := by
  induction bits generalizing k with
  | nil => rfl
  | cons v rest ih => exact congrArg (BusSign.bit v :: ·) (ih (k + 3))

/-- No data bit is a condition. -/
theorem conditions_bitSigns (k : Nat) (bits : List Bool) :
    (bitSigns k bits).filterMap (fun x => x.2.condition.map (x.1, ·)) = [] := by
  induction bits generalizing k with
  | nil => rfl
  | cons v rest ih => exact ih (k + 3)

section
variable (r : Redirect) (c d : PinNum) (n : Nat) (m : Bool)

/-- The clock of a data bit, from SCL low and inside a byte: SDA changes while SCL is low, so a reader sees the bit alone
(R106). -/
theorem signsFrom_clock (k : Nat) (sda v : Level) {j : Nat} (hj : j < 8) (rest : List PinEvent) :
    signsFrom ⟨m, j⟩ (lineStepsFrom r k (outputs false sda) n sda (clockEvents (wiresOf c d) v ++ rest)) =
      (k + 1, .bit v) :: signsFrom ⟨m, j + 1⟩ (lineStepsFrom r (k + 3) (outputs false v) n v rest) := by
  simp [clockEvents, wiresOf, lineStepsFrom_level_sda, lineStepsFrom_level_scl, signsFrom, BusReader.next,
    LineStep.condition, conditionAt, LineStep.clockedBit, dataBit, sampleInClock, hj.ne]

/-- A run of data bits inside one byte leaves SDA at the last of them. -/
theorem signsFrom_clocks (bits : List Bool) (k : Nat) (sda : Level) {j : Nat} (hj : j + bits.length ≤ 8)
    (rest : List PinEvent) :
    signsFrom ⟨m, j⟩
        (lineStepsFrom r k (outputs false sda) n sda (bits.flatMap (clockEvents (wiresOf c d)) ++ rest)) =
      bitSigns k bits ++ signsFrom ⟨m, j + bits.length⟩
        (lineStepsFrom r (k + 3 * bits.length) (outputs false (bits.getLastD sda)) n (bits.getLastD sda) rest) := by
  induction bits generalizing k sda j with
  | nil => rfl
  | cons v bits ih =>
    rw [List.length_cons] at hj ⊢
    have hevent : k + 3 + 3 * bits.length = k + 3 * (bits.length + 1) := by omega
    have hcount : j + 1 + bits.length = j + (bits.length + 1) := by omega
    rw [List.flatMap_cons, List.append_assoc, signsFrom_clock r c d n m k sda v (by omega), ih (k + 3) v (by omega),
      hevent, hcount, List.getLastD_cons, bitSigns, List.cons_append]

-- ## The acknowledge window of SEND (R112)

/-- The line steps of the acknowledge window: SDA goes from bit 0 to the sampled bit, and then to the level its return to an
output gives, all with SCL high. -/
theorem lineStepsFrom_ackWindow (k : Nat) (b0 a : Level) :
    lineStepsFrom r k (outputs false b0) n b0 (ackWindowEvents (wiresOf c d) a) =
      [⟨k, some false, some true, b0, b0, some a⟩, ⟨k + 1, some true, some true, b0, a, some a⟩,
        ⟨k + 2, some true, some true, a, a, none⟩,
        ⟨k + 3, some true, some true, a, redirectLatch r b0, none⟩,
        ⟨k + 4, some true, some false, redirectLatch r b0, redirectLatch r b0, none⟩] := rfl

end

/-- The signs of the acknowledge window of a `Send` in a transaction: the ninth bit, then the conditions of R112. -/
def ackWindowSigns (r : Redirect) (b0 a : Level) : List (Nat × BusSign) :=
  (25, .ninth (ninthBit a)) ::
    match b0, a, r with
    | false, false, _ => []
    | false, true, _ => [(26, .stop), (28, .start)]
    | true, false, .latch => [(26, .repeatedStart), (28, .stop)]
    | true, false, .low => [(26, .repeatedStart)]
    | true, true, .latch => []
    | true, true, .low => [(28, .repeatedStart)]

/-- Of the signs of the window, only the ninth bit is a bit. -/
theorem dataSigns_ackWindowSigns (r : Redirect) (b0 a : Level) :
    dataSigns (ackWindowSigns r b0 a) = [.ninth (ninthBit a)] := by
  cases b0 <;> cases a <;> cases r <;> rfl

section
variable (r : Redirect) (c d : PinNum) (sda : Level) (n : Nat) (b : Byte) (a : Level)

theorem signsFrom_ackWindow (b0 : Level) :
    signsFrom ⟨true, 8⟩ (lineStepsFrom r 25 (outputs false b0) n b0 (ackWindowEvents (wiresOf c d) a)) =
      ackWindowSigns r b0 a := by
  rw [lineStepsFrom_ackWindow]
  cases b0 <;> cases a <;> cases r <;> rfl

/-- Mid-transaction a reader sees of a `Send` the byte's bits, then its acknowledge window (R69, R106). -/
theorem busSigns_send :
    busSigns r (outputs false sda) n (sendEvents (wiresOf c d) b a) =
      bitSigns 1 (wireOrder b) ++ ackWindowSigns r (b.getLsbD 0) a := by
  have hlast : (wireOrder b).getLastD sda = b.getLsbD 0 := rfl
  calc busSigns r (outputs false sda) n (sendEvents (wiresOf c d) b a)
    _ = bitSigns 1 (wireOrder b) ++ signsFrom ⟨true, 8⟩ (lineStepsFrom r 25 (outputs false (b.getLsbD 0)) n (b.getLsbD 0)
          (ackWindowEvents (wiresOf c d) a)) := by
      rw [busSigns, lineSteps_outputs, sendEvents_eq, ← hlast]
      exact signsFrom_clocks r c d n true (wireOrder b) 1 sda (Nat.le_refl 8) _
    _ = bitSigns 1 (wireOrder b) ++ ackWindowSigns r (b.getLsbD 0) a := by rw [signsFrom_ackWindow]

/-- The conditions of a `Send` in a transaction are those of its acknowledge window (R112). -/
theorem conditions_send :
    conditions r (outputs false sda) n (sendEvents (wiresOf c d) b a) =
      (ackWindowSigns r (b.getLsbD 0) a).filterMap (fun x => x.2.condition.map (x.1, ·)) := by
  rw [← busSigns_conditions, busSigns_send, List.filterMap_append, conditions_bitSigns, List.nil_append]

/-- The data bits of a `Send` in a transaction are the byte's, then the ninth (R106). -/
theorem dataSigns_send :
    dataSigns (busSigns r (outputs false sda) n (sendEvents (wiresOf c d) b a)) =
      (wireOrder b).map .bit ++ [.ninth (ninthBit a)] := by
  rw [busSigns_send, dataSigns_append, dataSigns_bitSigns, dataSigns_ackWindowSigns]

end

-- ## The commands

theorem newEvents_of_trace {s t : State} {es : List PinEvent} (h : t.trace = s.trace ++ es) : newEvents s t = es := by
  rw [newEvents, h, List.drop_left]

/-- The events a command with this outcome adds. -/
theorem newEvents_of_exec {i : Instr} {s t u : State} {es : List PinEvent} (hu : exec i s = .next u)
    (htrace : u.trace = s.trace ++ es) (ht : exec i s = .next t) : newEvents s t = es := by
  rw [hu] at ht
  cases ht
  exact newEvents_of_trace htrace

/-- Settles O56: settled lines are both high exactly where SCL is. -/
theorem startConditionOnlyFromIdle : Obligations.StartConditionOnlyFromIdle := by
  intro r s t hscl hsda hp ht
  have hevents : newEvents s t = startEvents (activeWires s) :=
    newEvents_of_exec (startDrivesDataThenClockLow s hscl hsda) rfl ht
  rw [hevents, activeWires_eq, eq_outputs_of_settled hp, conditions_start]
  obtain ⟨-, -, hidle⟩ := hp
  cases hlat : s.pins.sclLat with
  | true => rw [hidle hlat]; rfl
  | false => rfl

/-- Settles O57: `Restart` from settled lines. -/
theorem restartMakesOneStartCondition : Obligations.RestartMakesOneStartCondition := by
  intro r s t hscl hsda hp ht
  have hevents : newEvents s t = restartEvents (activeWires s) :=
    newEvents_of_exec (restartReleasesThenStarts s hscl hsda) rfl ht
  rw [hevents, activeWires_eq, eq_outputs_of_settled hp]
  obtain ⟨-, -, hidle⟩ := hp
  exact ⟨conditions_restart r _ _ _ hidle, busSigns_restart r _ _ _ hidle⟩

/-- Settles O58: settled lines with SDA low have SCL low too. -/
theorem stopConditionOnlyIfDataLow : Obligations.StopConditionOnlyIfDataLow := by
  intro r s t hscl hsda hp ht
  have hevents : newEvents s t = stopEvents (activeWires s) :=
    newEvents_of_exec (stopReleasesTheBus s hscl hsda) rfl ht
  rw [hevents, activeWires_eq, eq_outputs_of_settled hp, conditions_stop]
  obtain ⟨-, -, hidle⟩ := hp
  cases hlat : s.pins.sclLat with
  | true => rw [hidle hlat]; rfl
  | false => cases s.pins.sdaLat <;> rfl

/-- Settles O59: NACK is the bit `Send` samples, and SCL is low, so a reader sees a `Send` in a transaction. -/
theorem ackWindowTransitions : Obligations.AckWindowTransitions := by
  intro r s t b hscl hsda hp hlow ht
  obtain ⟨-, -, hconfigured, -⟩ := sendShiftsByteAndSamplesAck s b
  have hexec := hconfigured hscl hsda
  have hevents : newEvents s t = sendEvents (activeWires s) b s.env.next.1 := newEvents_of_exec hexec rfl ht
  have hnack : t.nack = s.env.next.1 := by
    rw [hexec] at ht
    cases ht
    rfl
  rw [hevents, hnack, activeWires_eq, eq_outputs_of_settled hp, hlow]
  refine ⟨?_, dataSigns_send r _ _ _ _ b s.env.next.1⟩
  rw [conditions_send]
  cases b.getLsbD 0 <;> cases s.env.next.1 <;> cases r <;> rfl

end Sys2Proof.Machine

/-! PROOFS. DATA in its canonical form through every step: only the end of a `Recv` and a host's write of a DATA word
store bytes, both below index 256 (R37, R44, R83). -/

namespace Sys2Proof.Machine

theorem finish_wf (body tail : List PinOp) (fin : Completion) {s : State} (h : Memory.wf s.data = true) :
    Memory.wf (finish body tail fin s).data = true := by
  rw [finish, complete_data]
  exact runTail_wf tail _ (runBody_wf body s h)

theorem runPlan_wf (p : Plan) {s : State} (h : Memory.wf s.data = true) : Memory.wf (runPlan p s).data = true := by
  cases p with
  | run body tail fin => exact finish_wf body tail fin h
  | fault r => exact h

theorem runToCompletion_wf {s t : State} (h : Memory.wf s.data = true) (hrun : runToCompletion s = .next t) :
    Memory.wf t.data = true := by
  rw [runToCompletion_eq] at hrun
  cases hrun
  split
  · exact h
  · exact runPlan_wf _ h
  · exact finish_wf _ _ _ h

theorem engineStep_wf {s : State} (h : Memory.wf s.data = true) : Memory.wf (engineStep s).data = true := by
  obtain ⟨-, hstep⟩ | ⟨l, ⟨op, q, hstep⟩ | ⟨fin, hstep⟩ | ⟨r, hstep⟩⟩ := engineStep_cases s
  · rwa [hstep]
  · rw [hstep]
    exact doOp_wf op (setLoc l s) h
  · rw [hstep, complete_data]
    exact h
  · rw [hstep]
    exact h

theorem storeWord_wf {off : Nat} (v : Word) {s : State} (hin : off < 0x200) (halign : off % 4 = 0)
    (h : Memory.wf s.data = true) : Memory.wf (storeWord off v s).data = true := by
  obtain ⟨hdata, hstore⟩ | hstore | hstore | hstore := storeWord_cases off v s
  · rw [hstore]
    exact wf_setDataWord s.data (off - 0x100) v (by omega) h
  · rwa [hstore]
  · rwa [hstore]
  · rwa [hstore]

theorem hostWrite_wf (off bytes : Nat) (v : Word) {s : State} (h : Memory.wf s.data = true) :
    Memory.wf (hostWrite off bytes v s).data = true := by
  obtain hwrite | ⟨r, hwrite⟩ | ⟨-, hin, halign, hwrite⟩ := hostWrite_cases off bytes v s
  · rwa [hwrite]
  · rwa [hwrite]
  · rw [hwrite]
    exact storeWord_wf v hin halign h

theorem hostRead_data (off bytes : Nat) (s : State) : (hostRead off bytes s).data = s.data := by
  obtain ⟨v, h⟩ | h | ⟨r, h⟩ := hostRead_cases off bytes s
  · rw [h, returnRead_data]
  · rw [h, returnFree_data]
  · rw [h, markFault_data]

theorem hostReadIfOk_data (off : Nat) (s : State) : (hostReadIfOk off s).data = s.data := by
  obtain h | h := hostReadIfOk_cases off s
  · rw [h]
  · rw [h, hostRead_data]

/-- Settles O55: the engine and a host write keep the canonical form, a read leaves DATA alone, and reset empties it. -/
theorem everyStepKeepsDataCanonical : Obligations.EveryStepKeepsDataCanonical := by
  intro s t h hstep
  obtain ⟨-, -, -, rfl⟩ | ⟨-, hrun⟩ | ⟨-, a, rest, -, hturn⟩ := step_cases hstep
  · exact h
  · exact runToCompletion_wf h hrun
  · obtain ⟨off, bytes, v, -, rfl⟩ | ⟨off, bytes, -, rfl⟩ | ⟨off, -, rfl⟩ | ⟨-, -, rfl⟩ | ⟨-, rfl⟩ | ⟨-, rfl⟩ := hturn
    · exact hostWrite_wf off bytes v h
    · rw [hostRead_data]
      exact h
    · rw [hostReadIfOk_data]
      exact h
    · exact h
    · exact engineStep_wf h
    · exact wf_reset

end Sys2Proof.Machine

/-! PROOFS. The pins between commands: every procedure, and every body of an ACCESS, from pins that are outputs with SDA
high where SCL is, leaves them so again, run to its end or to an abort (R33, R66 to R71, R81, R107). -/

namespace Sys2Proof.Machine

/-- From the start of the operations with the pins settled, the pins are settled where they end or abort. -/
def KeepsSettled (ops : List PinOp) : Prop :=
  ∀ s : State, s.loc.abort = false → PinsSettled s.pins → PinsSettled (runBody ops s).pins

/-- With SCL low there is nothing to ask of SDA's level (R107). -/
theorem pinsSettled_of_low {p : Pins} (hscl : p.sclDir = .out) (hsda : p.sdaDir = .out) (hlow : p.sclLat = false) :
    PinsSettled p := ⟨hscl, hsda, fun hhigh => by simp [hlow] at hhigh⟩

theorem keepsSettled_nil : KeepsSettled [] := fun _ _ hp => hp

/-- An abort in the first part skips the second; without one the second starts. -/
theorem KeepsSettled.append {xs ys : List PinOp} (hxs : KeepsSettled xs) (hys : KeepsSettled ys) :
    KeepsSettled (xs ++ ys) := by
  intro s hs hp
  have hmid := hxs s hs hp
  cases habort : (runBody xs s).loc.abort with
  | true => rwa [runBody_append_of_abort ys rfl hs habort]
  | false =>
    rw [runBody_append_of_go ys rfl habort]
    exact hys _ habort hmid

section
variable (c d : PinNum)

theorem keepsSettled_startOps : KeepsSettled (startOps (wiresOf c d)) := by
  intro s hs ⟨hscl, hsda, _⟩
  rw [runBody_start c d s hs]
  exact pinsSettled_of_low hscl hsda rfl

theorem keepsSettled_restartOps : KeepsSettled (restartOps (wiresOf c d)) := by
  intro s hs ⟨hscl, hsda, _⟩
  rw [runBody_restart c d s hs]
  exact pinsSettled_of_low hscl hsda rfl

theorem keepsSettled_ackOps : KeepsSettled (ackOps (wiresOf c d)) := by
  intro s hs ⟨hscl, hsda, _⟩
  rw [runBody_ack c d s hs]
  exact pinsSettled_of_low hscl hsda rfl

theorem keepsSettled_stopOps : KeepsSettled (stopOps (wiresOf c d)) := by
  intro s hs ⟨hscl, hsda, _⟩
  rw [runBody_stop c d s hs]
  exact ⟨hscl, hsda, fun _ => rfl⟩

theorem keepsSettled_sendOps (b : Byte) (role : SendRole) : KeepsSettled (sendOps (wiresOf c d) b role) := by
  intro s hs ⟨hscl, _, _⟩
  rw [runBody_send c d s b role hs]
  exact pinsSettled_of_low hscl rfl rfl

theorem keepsSettled_recvOps (dst : Option (BitVec 8)) : KeepsSettled (recvOps (wiresOf c d) dst) := by
  intro s hs ⟨hscl, _, _⟩
  rw [runBody_recv c d s dst hs]
  exact pinsSettled_of_low hscl rfl rfl

theorem keepsSettled_sendAllOps (l : List (Byte × SendRole)) : KeepsSettled (sendAllOps (wiresOf c d) l) := by
  induction l with
  | nil => exact keepsSettled_nil
  | cons x l ih => exact (keepsSettled_sendOps c d x.1 x.2).append ih

theorem keepsSettled_readBytesOps (i n : Nat) : KeepsSettled (readBytesOps (wiresOf c d) i n) := by
  induction i, n using readBytesOps.induct with
  | case1 i => exact keepsSettled_nil
  | case2 i => exact keepsSettled_recvOps c d _
  | case3 i k ih => exact ((keepsSettled_recvOps c d _).append (keepsSettled_ackOps c d)).append ih

theorem keepsSettled_accessWriteBody (aw cmdb : Byte) (bytes : List Byte) :
    KeepsSettled (accessWriteBody (wiresOf c d) aw cmdb bytes) := by
  rw [accessWriteBody_eq]
  exact (keepsSettled_startOps c d).append (keepsSettled_sendAllOps c d _)

theorem keepsSettled_accessReadBody (aw ar cmdb : Byte) (len : Nat) :
    KeepsSettled (accessReadBody (wiresOf c d) aw ar cmdb len) := by
  rw [accessReadBody_eq_sends]
  exact ((((keepsSettled_startOps c d).append (keepsSettled_sendAllOps c d _)).append
    (keepsSettled_restartOps c d)).append (keepsSettled_sendAllOps c d _)).append (keepsSettled_readBytesOps c d 0 len)

/-- `Stop`, as the tail of an ACCESS, leaves both lines high (R68, R81). -/
theorem runTail_stop_settled {s : State} (hp : PinsSettled s.pins) :
    PinsSettled (runTail (stopOps (wiresOf c d)) s).pins := by
  obtain ⟨hscl, hsda, -⟩ := hp
  rw [runTail_stop]
  exact ⟨hscl, hsda, fun _ => rfl⟩
end

end Sys2Proof.Machine

/-! PROOFS. Every command leaves the registers and pins settled where it found them settled (R22, R23, R29, R33, R64 to
R83, R107). -/

namespace Sys2Proof.Machine

-- ## The parts `Settled` speaks of

/-- Where OPEN, the active pins, the address and the pins are those of a settled state, the state is settled. -/
theorem settled_congr {s t : State} (h : Settled s) (hopen : t.isOpen = s.isOpen) (hscl : t.actScl = s.actScl)
    (hsda : t.actSda = s.actSda) (haddr : t.saddr = s.saddr) (hpins : t.pins = s.pins) : Settled t := by
  obtain ⟨hiff, heven, hwhenOpen, hwhenClosed⟩ := h
  exact ⟨by rwa [hopen, hscl, hsda], by rwa [haddr], by rwa [hopen, hpins], by rwa [hopen, hpins]⟩

/-- A bus that is closed with no active pin and no pin owned is settled. -/
theorem settled_of_unowned {s : State} (hopen : s.isOpen = false) (hscl : s.actScl = 0) (haddr : s.saddr = 0)
    (hpins : s.pins = Pins.unowned) : Settled s where
  openIff := by simp [hopen, hscl]
  addrEven := by rw [haddr]; rfl
  pinsOpen h := by simp [hopen] at h
  pinsClosed _ := hpins

theorem settled_reset : Settled State.reset := settled_of_unowned rfl rfl rfl rfl

section
variable {s : State}

-- ## Plans without a pin event (R58, R64, R75, R91)

theorem settled_runPlan_report (e : Err) (h : Settled s) : Settled (runPlan (planDone (.report e)) s) :=
  settled_congr h rfl rfl rfl rfl rfl

theorem settled_abandon (r : Fault) (h : Settled s) : Settled (abandon r s) := settled_congr h rfl rfl rfl rfl rfl

theorem getLsbD_append_zero (a7 : BitVec 7) : (a7 ++ 0#1).getLsbD 0 = false := by
  rw [BitVec.getLsbD_append]
  rfl

/-- SETADDR stores a 7-bit address above a 0 bit (R75). -/
theorem settled_runPlan_setAddr (a7 : BitVec 7) (h : Settled s) : Settled (runPlan (planDone (.setAddr a7)) s) where
  openIff := h.openIff
  addrEven := getLsbD_append_zero a7
  pinsOpen := h.pinsOpen
  pinsClosed := h.pinsClosed

-- ## Plans that drive the bus (R66 to R71, R81)

/-- The operations of a command change only the parts they work on. -/
theorem runOps_frame (body tail : List PinOp) (s : State) :
    runTail tail (runBody body s) = graft s (runTail tail (runBody body s)) := by
  rw [runTail_frame, runBody_frame]
  rfl

/-- The completion step of an engine command or an ACCESS, with a bus open and its pins settled. -/
theorem settled_complete_driven {fin : Completion} (hfin : fin = .engine ∨ fin = .access) (h : Settled s)
    (hopen : s.isOpen = true) {u : State} (hframe : u = graft s u) (hpins : PinsSettled u.pins) :
    Settled (complete fin u) := by
  have hnotClosed : s.isOpen ≠ false := ne_false_of_eq_true hopen
  rw [hframe]
  obtain rfl | rfl := hfin
  · exact ⟨h.openIff, h.addrEven, fun _ => hpins, fun hclosed => absurd hclosed hnotClosed⟩
  · exact ⟨h.openIff, h.addrEven, fun _ => hpins, fun hclosed => absurd hclosed hnotClosed⟩

/-- An engine command runs only with both active pins nonzero, so only on an open bus (R22, R64). -/
theorem settled_runPlan_enginePlan {ops : List PinOp} (hops : KeepsSettled ops) (e : Err) (h : Settled s) :
    Settled (runPlan (enginePlan e ops s) s) := by
  unfold enginePlan
  split
  · exact settled_runPlan_report e h
  · rename_i hconf
    have hopen : s.isOpen = true := h.openIff.mpr (not_or.mp (mt unconf_iff.mpr hconf))
    exact settled_complete_driven (.inl rfl) h hopen (runOps_frame _ _ _) (hops _ rfl (h.pinsOpen hopen))

/-- An ACCESS that passes its checks runs on an open bus, and ends with `Stop` (R78, R81). -/
theorem settled_runPlan_access {body : List PinOp} (hbody : KeepsSettled body) (hpass : ¬ accessBlocked s = true)
    (h : Settled s) : Settled (runPlan (.run body (stopOps (activeWires s)) .access) s) := by
  obtain ⟨hopen, -⟩ := not_or.mp (mt accessBlocked_iff.mpr hpass)
  rw [Bool.not_eq_false] at hopen
  rw [activeWires_eq]
  exact settled_complete_driven (.inr rfl) h hopen (runOps_frame _ _ _)
    (runTail_stop_settled _ _ (hbody _ rfl (h.pinsOpen hopen)))

-- ## OPEN and CLOSE (R73, R74)

/-- OPEN's body notes a failed export, or leaves the bus idle. -/
theorem runBody_openOps (c d : PinNum) (hs : s.loc.abort = false) :
    (runBody (openOps (wiresOf c d)) s).loc.failed = true ∨
      PinsSettled (runBody (openOps (wiresOf c d)) s).pins := by
  cases h₁ : s.env.next.1 with
  | false =>
    rw [runBody_open_first_fails c d (envTake_one_eq.mpr h₁)]
    exact .inl rfl
  | true =>
    cases h₂ : s.env.next.2.next.1 with
    | false =>
      rw [runBody_open_second_fails c d hs (envTake_two_eq.mpr ⟨h₁, h₂⟩)]
      exact .inl rfl
    | true =>
      rw [runBody_open c d hs (envTake_two_eq.mpr ⟨h₁, h₂⟩)]
      exact .inr ⟨rfl, rfl, fun _ => rfl⟩

/-- OPEN's completion step: after a failed export no pin is owned, else the bus is open on two nonzero pins (R73). -/
theorem settled_complete_opened {c d : PinNum} (hc : c ≠ 0) (hd : d ≠ 0) {u : State} (h : Settled s)
    (hclosed : s.isOpen = false) (hframe : u = graft s u) (hu : u.loc.failed = true ∨ PinsSettled u.pins) :
    Settled (complete (.opened c d) u) := by
  rw [complete, commit, commitOpen]
  split
  · rw [hframe]
    exact settled_congr h rfl rfl rfl rfl (h.pinsClosed hclosed).symm
  · rename_i hok
    refine ⟨?iff, ?even, fun _ => hu.resolve_left hok, fun hshut => ?closed⟩
    case iff => exact iff_of_true rfl ⟨hc, hd⟩
    case even =>
      rw [hframe]
      exact h.addrEven
    case closed => cases hshut

theorem settled_runPlan_planOpen (h : Settled s) : Settled (runPlan (planOpen s) s) := by
  unfold planOpen
  split
  · exact settled_runPlan_report _ h
  · rename_i hopen
    split
    · exact settled_runPlan_report _ h
    · rename_i hgood
      obtain ⟨hc, hrest⟩ := not_or.mp (mt badDescriptor_iff.mpr hgood)
      obtain ⟨hd, -⟩ := not_or.mp hrest
      rw [Bool.not_eq_true] at hopen
      exact settled_complete_opened hc hd h hopen (runOps_frame _ [] _) (runBody_openOps _ _ rfl)

/-- CLOSE's completion step settles whatever the command did (R74). -/
theorem settled_complete_closed (u : State) : Settled (complete .closed u) := settled_of_unowned rfl rfl rfl rfl

-- ## Every command

theorem settled_runPlan_planOf (i : Instr) (h : Settled s) : Settled (runPlan (planOf i s) s) := by
  cases i with
  | start => exact settled_runPlan_enginePlan (keepsSettled_startOps _ _) _ h
  | restart => exact settled_runPlan_enginePlan (keepsSettled_restartOps _ _) _ h
  | stop => exact settled_runPlan_enginePlan (keepsSettled_stopOps _ _) _ h
  | send b => exact settled_runPlan_enginePlan (keepsSettled_sendOps _ _ b .host) _ h
  | recv => exact settled_runPlan_enginePlan (keepsSettled_recvOps _ _ none) _ h
  | ack => exact settled_runPlan_enginePlan (keepsSettled_ackOps _ _) _ h
  | setaddr a7 =>
    simp only [planOf, planSetAddr]
    split
    · exact settled_runPlan_setAddr a7 h
    · exact settled_runPlan_report _ h
  | accessW size len cmdb =>
    simp only [planOf, planAccessW]
    split
    · exact settled_runPlan_report _ h
    · rename_i hpass
      split
      · exact settled_abandon _ h
      · exact settled_runPlan_access (keepsSettled_accessWriteBody _ _ _ _ _) hpass h
  | accessR size len cmdb =>
    simp only [planOf, planAccessR]
    split
    · exact settled_runPlan_report _ h
    · rename_i hpass
      exact settled_runPlan_access (keepsSettled_accessReadBody _ _ _ _ _ _) hpass h
  | openBus => exact settled_runPlan_planOpen h
  | closeBus => exact settled_complete_closed _

/-- The word in CUR is a command, or illegal and refused (R58). -/
theorem settled_runPlan_planCur (h : Settled s) : Settled (runPlan (planCur s) s) := by
  unfold planCur
  split
  · exact settled_runPlan_planOf _ h
  · exact settled_runPlan_report _ h
end

end Sys2Proof.Machine

/-! PROOFS. The machine's invariant: it holds at reset, and the engine, one step at a time or run on, and every host
action keep it (R17, R46, R89, R102). -/

namespace Sys2Proof.Machine

section
variable {s : State}

-- ## The engine's soundness by its position

theorem engineSound_of_idle (hq : s.seq = .idle) : EngineSound s ↔ s.busy = false ∧ Settled s := by
  simp only [EngineSound, hq]

theorem engineSound_of_start (hq : s.seq = .start) : EngineSound s ↔ s.busy = true ∧ Settled s := by
  simp only [EngineSound, hq]

theorem engineSound_of_running {body tail : List PinOp} {fin : Completion} (hq : s.seq = .running body tail fin) :
    EngineSound s ↔ s.busy = true ∧ Settled (finish body tail fin s) := by
  simp only [EngineSound, hq]

/-- While BUSY = 0 the engine is at rest and the block is settled. -/
theorem engineSound_of_not_busy (h : EngineSound s) (hb : s.busy = false) : s.seq = .idle ∧ Settled s := by
  cases hq : s.seq with
  | idle => exact ⟨rfl, ((engineSound_of_idle hq).mp h).2⟩
  | start =>
    obtain ⟨hbusy, -⟩ := (engineSound_of_start hq).mp h
    simp [hb] at hbusy
  | running body tail fin =>
    obtain ⟨hbusy, -⟩ := (engineSound_of_running hq).mp h
    simp [hb] at hbusy

theorem engineSound_runPlan {p : Plan} (h : Settled (runPlan p s)) : EngineSound (runPlan p s) :=
  (engineSound_of_idle (runPlan_seq p s)).mpr ⟨by cases p <;> rfl, h⟩

-- ## The engine (R8, R17)

/-- The engine running on ends the command in flight, which its soundness says leaves the block settled. -/
theorem engineSound_runToCompletion {t : State} (h : EngineSound s) (hrun : runToCompletion s = .next t) :
    EngineSound t := by
  rw [runToCompletion_eq] at hrun
  cases hrun
  split
  · exact h
  · rename_i hq
    obtain ⟨-, hs⟩ := (engineSound_of_start hq).mp h
    exact engineSound_runPlan (settled_runPlan_planCur hs)
  · rename_i hq
    obtain ⟨-, hs⟩ := (engineSound_of_running hq).mp h
    exact ⟨rfl, hs⟩

/-- A step of a plan has the same end as the plan. -/
theorem engineSound_advance {body tail : List PinOp} {fin : Completion} (hb : s.busy = true)
    (h : Settled (finish body tail fin s)) : EngineSound (advance body tail fin s) := by
  obtain ⟨op, b, t, hstep, -, -, hend⟩ | ⟨hstep, rfl, rfl⟩ := advance_cases body tail fin s
  · rw [hstep]
    exact ⟨(doOp_busy op s).trans hb, by rwa [finish_setSeq, hend]⟩
  · rw [hstep]
    exact ⟨rfl, h⟩

theorem engineSound_engineStep (h : EngineSound s) : EngineSound (engineStep s) := by
  cases hq : s.seq with
  | idle =>
    simp only [engineStep, hq]
    exact h
  | start =>
    obtain ⟨hb, hs⟩ := (engineSound_of_start hq).mp h
    have hend := settled_runPlan_planCur hs
    simp only [engineStep, hq]
    cases hplan : planCur s with
    | run body tail fin =>
      rw [hplan] at hend
      exact engineSound_advance hb hend
    | fault r => exact ⟨rfl, settled_abandon r hs⟩
  | running body tail fin =>
    obtain ⟨hb, hend⟩ := (engineSound_of_running hq).mp h
    simp only [engineStep, hq]
    exact engineSound_advance hb hend

-- ## The host's actions (R46, R88, R102)

/-- The state with other values of what no command reads: the fault mark, the host's script and what it has read. -/
def setHostSide (f : Option Fault) (acts : List HostAction) (reads : List Word) (n : Nat) (s : State) : State :=
  { s with faulted := f, host := acts, reads := reads, readDraws := n }

theorem finish_setHostSide (f : Option Fault) (acts : List HostAction) (reads : List Word) (n : Nat)
    (body tail : List PinOp) (fin : Completion) (s : State) :
    finish body tail fin (setHostSide f acts reads n s) = setHostSide f acts reads n (finish body tail fin s) := by
  have hcomplete (u : State) :
      complete fin (setHostSide f acts reads n u) = setHostSide f acts reads n (complete fin u) := by
    cases fin with
    | opened c d => cases hfailed : u.loc.failed <;> simp [complete, commit, commitOpen, setHostSide, toIdle, hfailed]
    | _ => rfl
  rw [finish, runOps_comm (f := setHostSide f acts reads n) (fun _ _ => rfl), hcomplete]
  rfl

/-- The mark, the script and the reads have no part in the engine's soundness. -/
theorem engineSound_setHostSide (f : Option Fault) (acts : List HostAction) (reads : List Word) (n : Nat)
    (h : EngineSound s) : EngineSound (setHostSide f acts reads n s) := by
  cases hq : s.seq with
  | idle =>
    obtain ⟨hb, hs⟩ := (engineSound_of_idle hq).mp h
    exact (engineSound_of_idle (by exact hq)).mpr ⟨hb, settled_congr hs rfl rfl rfl rfl rfl⟩
  | start =>
    obtain ⟨hb, hs⟩ := (engineSound_of_start hq).mp h
    exact (engineSound_of_start (by exact hq)).mpr ⟨hb, settled_congr hs rfl rfl rfl rfl rfl⟩
  | running body tail fin =>
    obtain ⟨hb, hs⟩ := (engineSound_of_running hq).mp h
    refine (engineSound_of_running (by exact hq)).mpr ⟨hb, ?_⟩
    rw [finish_setHostSide]
    exact settled_congr hs rfl rfl rfl rfl rfl

theorem engineSound_popHost (h : EngineSound s) : EngineSound (popHost s) := engineSound_setHostSide _ _ _ _ h

theorem engineSound_returnRead (v : Word) (h : EngineSound s) : EngineSound (returnRead v s) :=
  engineSound_setHostSide _ _ _ _ h

theorem engineSound_returnFree (h : EngineSound s) : EngineSound (returnFree s) := engineSound_setHostSide _ _ _ _ h

theorem engineSound_markFault (r : Fault) (h : EngineSound s) : EngineSound (markFault r s) :=
  engineSound_setHostSide _ _ _ _ h

/-- While BUSY = 0 a store touches neither the engine nor a settled part, but for a command, which puts the engine at
its start (R17). -/
theorem engineSound_storeWord (off : Nat) (v : Word) (hb : s.busy = false) (h : EngineSound s) :
    EngineSound (storeWord off v s) := by
  obtain ⟨hq, hs⟩ := engineSound_of_not_busy h hb
  obtain ⟨-, hstore⟩ | hstore | hstore | hstore := storeWord_cases off v s
  · rw [hstore]
    exact (engineSound_of_idle (by exact hq)).mpr ⟨hb, settled_congr hs rfl rfl rfl rfl rfl⟩
  · rw [hstore]
    exact ⟨rfl, settled_congr hs rfl rfl rfl rfl rfl⟩
  · rw [hstore]
    exact (engineSound_of_idle (by exact hq)).mpr ⟨hb, settled_congr hs rfl rfl rfl rfl rfl⟩
  · rwa [hstore]

theorem engineSound_hostWrite (off bytes : Nat) (v : Word) (h : EngineSound s) :
    EngineSound (hostWrite off bytes v s) := by
  obtain hwrite | ⟨r, hwrite⟩ | ⟨hb, -, -, hwrite⟩ := hostWrite_cases off bytes v s
  · rwa [hwrite]
  · rw [hwrite]
    exact engineSound_markFault r h
  · rw [hwrite]
    exact engineSound_storeWord off v hb h

theorem engineSound_hostRead (off bytes : Nat) (h : EngineSound s) : EngineSound (hostRead off bytes s) := by
  obtain ⟨v, hread⟩ | hread | ⟨r, hread⟩ := hostRead_cases off bytes s
  · rw [hread]
    exact engineSound_returnRead v h
  · rw [hread]
    exact engineSound_returnFree h
  · rw [hread]
    exact engineSound_markFault r h

theorem engineSound_hostReadIfOk (off : Nat) (h : EngineSound s) : EngineSound (hostReadIfOk off s) := by
  obtain hread | hread := hostReadIfOk_cases off s
  · rwa [hread]
  · rw [hread]
    exact engineSound_hostRead off 4 h

/-- Reset leaves the engine at rest with no pin owned, whatever ran (R102). -/
theorem engineSound_resetAction (s : State) : EngineSound (resetAction s) :=
  ⟨rfl, settled_congr settled_reset rfl rfl rfl rfl rfl⟩

theorem engineSound_step {t : State} (h : EngineSound s) (hstep : step s = .next t) : EngineSound t := by
  have hpop := engineSound_popHost h
  obtain ⟨-, -, -, rfl⟩ | ⟨-, hrun⟩ | ⟨-, a, rest, -, hturn⟩ := step_cases hstep
  · exact h
  · exact engineSound_runToCompletion h hrun
  · obtain ⟨off, bytes, v, -, rfl⟩ | ⟨off, bytes, -, rfl⟩ | ⟨off, -, rfl⟩ | ⟨-, -, rfl⟩ | ⟨-, rfl⟩ | ⟨-, rfl⟩ := hturn
    · exact engineSound_hostWrite off bytes v hpop
    · exact engineSound_hostRead off bytes hpop
    · exact engineSound_hostReadIfOk off hpop
    · exact engineSound_returnRead _ hpop
    · exact engineSound_engineStep hpop
    · exact engineSound_resetAction (popHost s)
end

/-- Settles O53: DATA is empty, the engine at rest, and no pin is owned. -/
theorem invariantAtReset : Obligations.InvariantAtReset := ⟨wf_reset, rfl, settled_reset⟩

/-- Settles O54: DATA's form is kept by O55, and the engine's soundness by each thing a step can do. -/
theorem everyStepKeepsInvariant : Obligations.EveryStepKeepsInvariant := by
  rintro s t ⟨hdata, hengine⟩ hstep
  exact ⟨everyStepKeepsDataCanonical s t hdata hstep, engineSound_step hengine hstep⟩

end Sys2Proof.Machine
